-- ==== Sys2Proof/Word.lean ====
section
/-! DEFINITION. The two word sizes of the machine: the 8-bit data bus and the 16-bit counter (spec R6). -/

namespace Sys2Proof

/-- What D7-0 and the host registers A, D, E carry (R6, R170). -/
abbrev Byte := BitVec 8

/-- A count, `MS ++ LS` (R8, R13), and the host's program counter (R170). -/
abbrev Word := BitVec 16

end Sys2Proof
end

