-- ==== Sys2Proof/Syntax.lean ====
section
/-! DEFINITION. The operations of spec/opcode_table.json, one constructor per mnemonic (the rows of one mnemonic
are its operand forms), and the raw encodings they are read from. -/

namespace Sys2Proof

/-- Counter n of the device, n = 0, 1, 2 (R6, R49). -/
inductive CtrIdx where
  | c0
  | c1
  | c2
deriving DecidableEq, Repr

/-- The six modes of operation (R51). -/
inductive Mode where
  /-- interrupt on terminal count -/
  | m0
  /-- re-triggerable mono-stable multi -/
  | m1
  /-- rate generator -/
  | m2
  /-- square wave generator -/
  | m3
  /-- software-triggered strobe -/
  | m4
  /-- hardware-triggered strobe -/
  | m5
deriving DecidableEq, Repr

/-- How a counter port is read and written: `RW` = 01, 10, 11 (R12, R50). `RW` = 00 is the read-on-the-fly
command and never a format. -/
inductive RW where
  /-- 01, LS byte only -/
  | ls
  /-- 10, MS byte only -/
  | ms
  /-- 11, LS byte and then MS byte -/
  | lsms
deriving DecidableEq, Repr

/-- One constructor per mnemonic of spec/opcode_table.json. -/
inductive Instr where
  /-- `BUS.RD_C0` (R86) -/
  | busRdC0
  /-- `BUS.RD_C1` (R86) -/
  | busRdC1
  /-- `BUS.RD_C2` (R86) -/
  | busRdC2
  /-- `BUS.RD_CTL_NOP`: a read of the control port, no operation (R34) -/
  | busRdCtlNop
  /-- `BUS.WR_C0`, D7-0 = `d` (R76) -/
  | busWrC0 (d : Byte)
  /-- `BUS.WR_C1`, D7-0 = `d` (R76) -/
  | busWrC1 (d : Byte)
  /-- `BUS.WR_C2`, D7-0 = `d` (R76) -/
  | busWrC2 (d : Byte)
  /-- `BUS.WR_CTL`, D7-0 = `d` (R60) -/
  | busWrCtl (d : Byte)
  /-- `BUS.NOP_DESELECTED`: CS* = 1; `pins` are A1 A0 RD* WR* CS* (R34) -/
  | busNopDeselected (pins : BitVec 5)
  /-- `BUS.NOP_IDLE`: CS* = 0, RD* = WR* = 1 (R34) -/
  | busNopIdle (pins : BitVec 5)
  /-- `BUS.RDWR_BOTH_LOW`: CS* = RD* = WR* = 0, no event of the spec (R34, D17) -/
  | busRdwrBothLow (pins : BitVec 5)
  /-- `CW.ILLEGAL_SC`, the whole word (R69) -/
  | cwIllegalSc (w : Byte)
  /-- `CW.LATCH`, the read-on-the-fly command; `x` are its four don't-care bits (R68) -/
  | cwLatch (n : CtrIdx) (x : BitVec 4)
  /-- `CW.MODE0` (R62) -/
  | cwMode0 (n : CtrIdx) (rw : RW) (bcd : Bool)
  /-- `CW.MODE1` (R63) -/
  | cwMode1 (n : CtrIdx) (rw : RW) (bcd : Bool)
  /-- `CW.MODE2` (R64) -/
  | cwMode2 (n : CtrIdx) (rw : RW) (bcd : Bool)
  /-- `CW.MODE3` (R65) -/
  | cwMode3 (n : CtrIdx) (rw : RW) (bcd : Bool)
  /-- `CW.MODE4` (R66) -/
  | cwMode4 (n : CtrIdx) (rw : RW) (bcd : Bool)
  /-- `CW.MODE5` (R67) -/
  | cwMode5 (n : CtrIdx) (rw : RW) (bcd : Bool)
  /-- `CW.ILLEGAL_MODE`, the whole word (R70) -/
  | cwIllegalMode (w : Byte)
  /-- `CNT.WR`: a byte written to a counter port (R76) -/
  | cntWr (n : CtrIdx) (d : Byte)
  /-- `CNT.RD`: a byte read from a counter port; the byte is the device's answer (R86) -/
  | cntRd (n : CtrIdx)
  /-- `CLK.PULSE`, the event `ClockPulse(n)`; its table row is chosen by `MODE[n]` (R24, R58) -/
  | clkPulse (n : CtrIdx)
  /-- `GATE.SET`, the event `GateSet(n, v)`; its table row is chosen by `MODE[n]` (R24, R58) -/
  | gateSet (n : CtrIdx) (v : Bool)
  /-- `MVI A, d8` (R172) -/
  | mviA (d8 : Byte)
  /-- `OUT a8` (R173) -/
  | outA8 (a8 : Byte)
  /-- `IN a8` (R174) -/
  | inA8 (a8 : Byte)
  /-- `MOV E, A` (R175) -/
  | movEA
  /-- `MOV D, A` (R175) -/
  | movDA
deriving DecidableEq, Repr

/-- The raw bits of one event on the device's pins, by the formats of R46 and R58. The packing of the arguments
that the table gives no bits (a port number, a gate level) is the model's (log 16). -/
inductive Wire where
  /-- format `BUS`: A1 A0 RD* WR* CS* and the byte the host drives on D7-0 (used by a write only) -/
  | bus (pins : BitVec 5) (d : Byte)
  /-- format `CW`: D7-0 during a write with A1 A0 = 11 -/
  | cw (w : Byte)
  /-- format `DATA`, a write: A1 A0 and D7-0 -/
  | dataWr (port : BitVec 2) (d : Byte)
  /-- format `DATA`, a read: A1 A0; the device drives D7-0 -/
  | dataRd (port : BitVec 2)
  /-- a whole pulse on CLK `n` -/
  | clk (n : BitVec 2)
  /-- the Gate `n` pin takes level `v` -/
  | gate (n : BitVec 2) (v : Bool)
deriving DecidableEq, Repr

/-- What the decoder reads: an event on the pins, or the bytes of a host instruction (R57). -/
inductive Encoding where
  | wire (x : Wire)
  | code (bytes : List Byte)
deriving DecidableEq, Repr

/-- Why the decoder rejects its input, by name. -/
inductive DecodeError where
  /-- the two counter-number bits are 11, which names no counter (R6, R30) -/
  | noSuchCounter
  /-- the opcode byte is none of the five of R57; the rest of the 8085 is out of scope (R5) -/
  | unknownOpcode (b : Byte)
  /-- a host instruction with no byte, or with a byte too few or too many -/
  | wrongLength
deriving DecidableEq, Repr

end Sys2Proof
end

