-- ==== Sys2Proof/WellFormed.lean ====
section
/-! DEFINITION. The operands that an encoding can carry. Counters, modes and formats are constructors and need no
check; what does are the operands that hold a whole undecoded word (R45, R55). -/

namespace Sys2Proof

/-- Does the row of the opcode table hold the operands of `i`? -/
def WellFormed : Instr → Bool
  | .busRdC0 => true
  | .busRdC1 => true
  | .busRdC2 => true
  | .busRdCtlNop => true
  | .busWrC0 _ => true
  | .busWrC1 _ => true
  | .busWrC2 _ => true
  | .busWrCtl _ => true
  -- X X X X 1
  | .busNopDeselected pins => pins.getLsbD 0
  -- X X 1 1 0
  | .busNopIdle pins => pins.getLsbD 2 && pins.getLsbD 1 && !pins.getLsbD 0
  -- X X 0 0 0
  | .busRdwrBothLow pins => !pins.getLsbD 2 && !pins.getLsbD 1 && !pins.getLsbD 0
  -- SC = 11
  | .cwIllegalSc w => w.extractLsb' 6 2 == 3#2
  | .cwLatch _ _ => true
  | .cwMode0 _ _ _ => true
  | .cwMode1 _ _ _ => true
  | .cwMode2 _ _ _ => true
  | .cwMode3 _ _ _ => true
  | .cwMode4 _ _ _ => true
  | .cwMode5 _ _ _ => true
  -- SC other than 11, RW other than 00, M = 110 or 111
  | .cwIllegalMode w =>
    !(w.extractLsb' 6 2 == 3#2) && !(w.extractLsb' 4 2 == 0#2) && w.extractLsb' 2 2 == 3#2
  | .cntWr _ _ => true
  | .cntRd _ => true
  | .clkPulse _ => true
  | .gateSet _ _ => true
  | .mviA _ => true
  | .outA8 _ => true
  | .inA8 _ => true
  | .movEA => true
  | .movDA => true

end Sys2Proof
end

