-- ==== Sys2Proof/Decode.lean ====
section
/-! DEFINITION. Decoding of the bus operations (R45), control words (R48 to R53), count bytes (R54), pin events
(R58) and host instructions (R57), the encoder of each, and the reading of a bare number of the opcode table. -/

namespace Sys2Proof

/-! ## Fields -/

/-- Counter named by two bits, `SC` or A1 A0; 11 names none (R30, R49). -/
def ctrOfBits (b : BitVec 2) : Option CtrIdx :=
  if b = 0#2 then some .c0 else if b = 1#2 then some .c1 else if b = 2#2 then some .c2 else none

/-- The two bits of a counter number (R30, R49). -/
def ctrBits : CtrIdx → BitVec 2
  | .c0 => 0#2
  | .c1 => 1#2
  | .c2 => 2#2

/-- Field `RW` (R50); 00 is no format. -/
def rwOfBits (b : BitVec 2) : Option RW :=
  if b = 1#2 then some .ls else if b = 2#2 then some .ms else if b = 3#2 then some .lsms else none

/-- The bits of field `RW` (R50). -/
def rwBits : RW → BitVec 2
  | .ls => 1#2
  | .ms => 2#2
  | .lsms => 3#2

/-- Field `M` (R51); 110 and 111 are illegal. -/
def modeOfBits (b : BitVec 3) : Option Mode :=
  if b = 0#3 then some .m0 else if b = 1#3 then some .m1 else if b = 2#3 then some .m2
  else if b = 3#3 then some .m3 else if b = 4#3 then some .m4 else if b = 5#3 then some .m5 else none

/-- The bits of field `M` (R51). -/
def modeBits : Mode → BitVec 3
  | .m0 => 0#3
  | .m1 => 1#3
  | .m2 => 2#3
  | .m3 => 3#3
  | .m4 => 4#3
  | .m5 => 5#3

/-- `SC` = bits 7:6 (R49). -/
def cwSC (w : Byte) : BitVec 2 := w.extractLsb' 6 2

/-- `RW` = bits 5:4 (R50). -/
def cwRW (w : Byte) : BitVec 2 := w.extractLsb' 4 2

/-- `M` = bits 3:1 (R51). -/
def cwM (w : Byte) : BitVec 3 := w.extractLsb' 1 3

/-- `BCD` = bit 0 (R52). -/
def cwBCD (w : Byte) : Bool := w.getLsbD 0

/-- The four don't-care bits of the read-on-the-fly command, bits 3:0 (R68). -/
def cwLow (w : Byte) : BitVec 4 := w.extractLsb' 0 4

/-! ## Decoders -/

/-- The mode-setting word of a mode. -/
def modeInstr (m : Mode) (n : CtrIdx) (rw : RW) (bcd : Bool) : Instr :=
  match m with
  | .m0 => .cwMode0 n rw bcd
  | .m1 => .cwMode1 n rw bcd
  | .m2 => .cwMode2 n rw bcd
  | .m3 => .cwMode3 n rw bcd
  | .m4 => .cwMode4 n rw bcd
  | .m5 => .cwMode5 n rw bcd

/-- `ControlDecode` of R53, its tests in that order: SC = 11, then RW = 00, then M. -/
def decodeCw (w : Byte) : Instr :=
  match ctrOfBits (cwSC w) with
  | none => .cwIllegalSc w
  | some n =>
    match rwOfBits (cwRW w) with
    | none => .cwLatch n (cwLow w)
    | some rw =>
      match modeOfBits (cwM w) with
      | none => .cwIllegalMode w
      | some m => modeInstr m n rw (cwBCD w)

/-- Table 25.1 (R45): A1 = bit 4, A0 = bit 3, RD* = bit 2, WR* = bit 1, CS* = bit 0. -/
def decodeBus (pins : BitVec 5) (d : Byte) : Instr :=
  let address := pins.extractLsb' 3 2
  if pins.getLsbD 0 then .busNopDeselected pins
  else
    match pins.getLsbD 2, pins.getLsbD 1 with
    | true, true => .busNopIdle pins
    | false, false => .busRdwrBothLow pins
    | false, true =>
      match ctrOfBits address with
      | some .c0 => .busRdC0
      | some .c1 => .busRdC1
      | some .c2 => .busRdC2
      | none => .busRdCtlNop
    | true, false =>
      match ctrOfBits address with
      | some .c0 => .busWrC0 d
      | some .c1 => .busWrC1 d
      | some .c2 => .busWrC2 d
      | none => .busWrCtl d

/-- An event that names its counter by two bits. -/
def forCounter (port : BitVec 2) (f : CtrIdx → Instr) : Except DecodeError Instr :=
  match ctrOfBits port with
  | some n => .ok (f n)
  | none => .error .noSuchCounter

/-- The event on the pins. -/
def decodeWire : Wire → Except DecodeError Instr
  | .bus pins d => .ok (decodeBus pins d)
  | .cw w => .ok (decodeCw w)
  | .dataWr port d => forCounter port fun n => .cntWr n d
  | .dataRd port => forCounter port fun n => .cntRd n
  | .clk port => forCounter port fun n => .clkPulse n
  | .gate port v => forCounter port fun n => .gateSet n v

/-- Does the opcode byte take a second byte (R57, R171)? -/
def takesOperand (op : Byte) : Bool := op == 0x3E#8 || op == 0xD3#8 || op == 0xDB#8

/-- The bytes of one host instruction (R57). -/
def decodeCode : List Byte → Except DecodeError Instr
  | [] => .error .wrongLength
  | [op] =>
    if op = 0x5F#8 then .ok .movEA
    else if op = 0x57#8 then .ok .movDA
    else if takesOperand op then .error .wrongLength
    else .error (.unknownOpcode op)
  | [op, b] =>
    if op = 0x3E#8 then .ok (.mviA b)
    else if op = 0xD3#8 then .ok (.outA8 b)
    else if op = 0xDB#8 then .ok (.inA8 b)
    else .error .wrongLength
  | _ :: _ :: _ :: _ => .error .wrongLength

/-- The decoder, total on any input. -/
def decode : Encoding → Except DecodeError Instr
  | .wire x => decodeWire x
  | .code bytes => decodeCode bytes

/-! ## Encoders -/

/-- `w = SC*64 + RW*16 + M*2 + BCD` (R47), as the fields side by side (R48). -/
def encodeModeWord (n : CtrIdx) (rw : RW) (m : Mode) (bcd : Bool) : Byte :=
  ctrBits n ++ rwBits rw ++ modeBits m ++ BitVec.ofBool bcd

/-- A1 A0, RD*, WR*, CS* side by side (R46). -/
def encodePins (address : BitVec 2) (rd wr cs : Bool) : BitVec 5 :=
  address ++ BitVec.ofBool rd ++ BitVec.ofBool wr ++ BitVec.ofBool cs

/-- The encoding of an instruction; bits that carry nothing are 0. -/
def encode : Instr → Encoding
  | .busRdC0 => .wire (.bus (encodePins 0#2 false true false) 0#8)
  | .busRdC1 => .wire (.bus (encodePins 1#2 false true false) 0#8)
  | .busRdC2 => .wire (.bus (encodePins 2#2 false true false) 0#8)
  | .busRdCtlNop => .wire (.bus (encodePins 3#2 false true false) 0#8)
  | .busWrC0 d => .wire (.bus (encodePins 0#2 true false false) d)
  | .busWrC1 d => .wire (.bus (encodePins 1#2 true false false) d)
  | .busWrC2 d => .wire (.bus (encodePins 2#2 true false false) d)
  | .busWrCtl d => .wire (.bus (encodePins 3#2 true false false) d)
  | .busNopDeselected pins => .wire (.bus pins 0#8)
  | .busNopIdle pins => .wire (.bus pins 0#8)
  | .busRdwrBothLow pins => .wire (.bus pins 0#8)
  | .cwIllegalSc w => .wire (.cw w)
  | .cwLatch n x => .wire (.cw (ctrBits n ++ 0#2 ++ x))
  | .cwMode0 n rw bcd => .wire (.cw (encodeModeWord n rw .m0 bcd))
  | .cwMode1 n rw bcd => .wire (.cw (encodeModeWord n rw .m1 bcd))
  | .cwMode2 n rw bcd => .wire (.cw (encodeModeWord n rw .m2 bcd))
  | .cwMode3 n rw bcd => .wire (.cw (encodeModeWord n rw .m3 bcd))
  | .cwMode4 n rw bcd => .wire (.cw (encodeModeWord n rw .m4 bcd))
  | .cwMode5 n rw bcd => .wire (.cw (encodeModeWord n rw .m5 bcd))
  | .cwIllegalMode w => .wire (.cw w)
  | .cntWr n d => .wire (.dataWr (ctrBits n) d)
  | .cntRd n => .wire (.dataRd (ctrBits n))
  | .clkPulse n => .wire (.clk (ctrBits n))
  | .gateSet n v => .wire (.gate (ctrBits n) v)
  | .mviA d8 => .code [0x3E#8, d8]
  | .outA8 a8 => .code [0xD3#8, a8]
  | .inA8 a8 => .code [0xDB#8, a8]
  | .movEA => .code [0x5F#8]
  | .movDA => .code [0x57#8]

/-! ## The selector of the PIN rows -/

/-- The two environment events of format `PIN` (R58): bit 3 of the selector. -/
def pinSelector (isGate : Bool) (m : Mode) : BitVec 4 := BitVec.ofBool isGate ++ modeBits m

/-- The row a selector names: the kind of event and the mode whose rule it cites; 110 and 111 have no row (R58). -/
def pinRow (sel : BitVec 4) : Option (Bool × Mode) :=
  (modeOfBits (sel.extractLsb' 0 3)).map fun m => (sel.getLsbD 3, m)

/-! ## Numbers of the opcode table

A number of the table does not say which of the five formats it is of, and one byte can be a row of several
(12H is `BUS.RD_C2` and `CW.MODE1`). The model's convention (log 14) takes the number for the row whose whole
`match` value it is, in the order 8085, BUS, PIN, and else for a control word. Arguments that the table gives no
bits are 0: counter 0, gate level 0. -/

/-- The 8085 rows' opcode bytes (R57). -/
def isHostOpcode (w : Nat) : Bool := w == 0x3E || w == 0xD3 || w == 0xDB || w == 0x5F || w == 0x57

/-- The BUS rows' `match` values (R45). -/
def isBusRow (w : Nat) : Bool :=
  [0x02, 0x0A, 0x12, 0x1A, 0x04, 0x0C, 0x14, 0x1C, 0x01, 0x06, 0x00].contains w

/-- Host instruction bytes from a number, the first byte in its low bits. -/
def codeOfNumber (w : Nat) : Encoding :=
  let op := BitVec.ofNat 8 w
  if takesOperand op then .code [op, BitVec.ofNat 8 (w / 256)] else .code [op]

/-- A pin event from its selector, with arguments 0. -/
def pinOfNumber (w : Nat) : Option Encoding :=
  (pinRow (BitVec.ofNat 4 w)).map fun r => .wire (if r.1 then .gate 0#2 false else .clk 0#2)

/-- The encoding that `nbits` bits of number `w` are taken for (log 14). -/
def tableEncoding (nbits w : Nat) : Option Encoding :=
  if nbits = 16 then some (codeOfNumber w)
  else if nbits = 4 then pinOfNumber w
  else if nbits = 5 then some (.wire (.bus (BitVec.ofNat 5 w) 0#8))
  else if nbits = 8 then
    if isHostOpcode w then some (codeOfNumber w)
    else if isBusRow w then some (.wire (.bus (BitVec.ofNat 5 w) 0#8))
    else if w < 14 ∧ w ≠ 7 ∧ w ≠ 6 then pinOfNumber w
    else some (.wire (.cw (BitVec.ofNat 8 w)))
  else none

/-- The instruction the decoder reads from a number of the opcode table. -/
def decodeTableWord (nbits w : Nat) : Option Instr :=
  match tableEncoding nbits w with
  | none => none
  | some e =>
    match decode e with
    | .ok i => some i
    | .error _ => none

end Sys2Proof
end

