-- ==== Sys2Proof/Config.lean ====
section
/-! DEFINITION. The values the spec leaves free. Each is an opaque constant with no body, so that nothing
can be proved about the value it takes (notes/assumptions 3, 4, 10). -/

namespace Sys2Proof

/-- `any8` of R8, "an arbitrary 8-bit value chosen afresh at each use": the value of the use numbered by the
argument (R34, R90, D15, D16). Free value, log 3. -/
opaque Config.any8 : Nat → Byte

/-- The level of Out n after a mode-0 reload past the terminal count, where the run does not fix
`MODE0_RELOAD_AFTER_TC_OUT` (R101, D24); `true` is logic 1. Free value, log 10. -/
opaque Config.mode0ReloadLevel : Nat → Bool

/-- The host's PC one past FFFFH: "Wrap-around of the host's PC at FFFFH [is] not stated" (R11). Free value,
log 4. -/
opaque Config.pcPastTop : Word

end Sys2Proof
end

