-- ==== Sys2Proof/Machine/State.lean ====
section
/-! DEFINITION. The state of the 8253, of the host that drives it, and of their surroundings; the reasons a step can
stop; the state at power-on (R12 to R21, R28, R170, R7). -/

namespace Sys2Proof.Machine

/-- The write phase and the read phase: which byte of a two-byte transfer comes next (R15, R16). -/
inductive Phase where
  | ls
  | ms
deriving DecidableEq, Repr

/-- The level of an output pin: tristate, 0 or 1 (R19). -/
inductive OutPin where
  | z
  | lo
  | hi
deriving DecidableEq, Repr

/-- The components of one counter (R12 to R19, R21). `none` is the spec's own value "no value" (R8). -/
structure Counter where
  /-- `CFG[n]`: a mode-setting control word has been written since power-on (R12) -/
  cfg : Bool
  /-- `MODE[n]` (R12) -/
  mode : Mode
  /-- `BCD[n]`: count down in decimal (R12) -/
  bcd : Bool
  /-- `RW[n]` (R12) -/
  rw : RW
  /-- `CRL[n]`, the LS byte of the counter register (R13) -/
  crl : Option Byte
  /-- `CRM[n]`, the MS byte of the counter register (R13) -/
  crm : Option Byte
  /-- `BC[n]`, the BCounter (R14) -/
  bc : Option Word
  /-- `WPH[n]` (R15) -/
  wph : Phase
  /-- `RPH[n]` (R16) -/
  rph : Phase
  /-- `RUN[n]`: a count-down is in progress (R17) -/
  run : Bool
  /-- `HALF[n]`, the mode-3 half-way mark (R18) -/
  half : Nat
  /-- `OUT[n]`, the output pin (R19) -/
  out : OutPin
  /-- `GATE[n]`, the gate input pin (R21) -/
  gate : Bool
deriving DecidableEq, Repr

/-- `k` of the temporary register: how many bytes are still to be read (R20). -/
inductive BytesLeft where
  | two
  | one
deriving DecidableEq, Repr

/-- What the temporary register holds when it holds something: `(n, v, k)` (R20). -/
structure Latched where
  counter : CtrIdx
  value : Option Word
  left : BytesLeft
deriving DecidableEq, Repr

/-- The host registers the programs use, and its PC (R170). -/
structure HostRegs where
  a : Byte
  d : Byte
  e : Byte
  pc : Word
deriving DecidableEq, Repr

/-- What the device drives on D7-0 during a bus event: nothing (tristate) or a byte (R23, R33, R34). -/
inductive DataPins where
  | z
  | driven (b : Byte)
deriving DecidableEq, Repr

/-- The parameter `SINGLE_BYTE_OTHER` (R7, R77, D25). -/
inductive SingleByteOther where
  /-- a one-byte load has no meaning -/
  | refuse
  /-- the byte that a one-byte load does not write is 00H -/
  | zero
deriving DecidableEq, Repr

/-- The parameter `MODE0_RELOAD_AFTER_TC_OUT` (R7, R101, D24). -/
inductive Mode0Reload where
  /-- a reload after the terminal count has no meaning -/
  | refuse
  /-- the output returns to 0 -/
  | low
  /-- the output stays 1 -/
  | high
  /-- the model's own value: the run does not fix the level, which is then a free value (log 10) -/
  | free
deriving DecidableEq, Repr

/-- The parameter `OUT_WIRING[n]`: what the Out n pin is connected to (R7, R194, D20). -/
inductive Wiring where
  | none
  | trap
  | rst75
  | rst65
  | rst55
  | intr
  | other
deriving DecidableEq, Repr

/-- "Maximum frequency allowed for any of these clocks is 2 MHz": a period, in nanoseconds, of at least 0.5 µs (R7,
R221). No step checks it (U29). -/
def clkWithinLimit (ns : Rat) : Bool := decide (500 ≤ ns)

/-- The parameter `CLK_PERIOD[n]`, a number of nanoseconds of at least 0.5 µs, rational so that states compare (R7,
D27; log 11). -/
structure ClkPeriod where
  ns : Rat
  atLeast : clkWithinLimit ns = true
deriving DecidableEq, Repr

/-- The parameters of R7 other than `GATE_INIT`, fixed for a run: no step writes them. -/
structure Board where
  /-- bits 7:2 of `PORT_BASE`, whose low two bits are 0 (R7, R35) -/
  portBase : BitVec 6
  singleByteOther : SingleByteOther
  mode0Reload : Mode0Reload
  wiring0 : Wiring
  wiring1 : Wiring
  wiring2 : Wiring
  /-- `CLK_PERIOD[0]` (R7); no rule depends on a period (R221, D27) -/
  clkPeriod0 : ClkPeriod
  clkPeriod1 : ClkPeriod
  clkPeriod2 : ClkPeriod
deriving DecidableEq, Repr

/-- One entry of the queue that says which agent moves next (R10, R24; log 2). -/
inductive Input where
  /-- the host runs its next instruction -/
  | host
  /-- an event on the device's pins -/
  | event (x : Wire)
deriving DecidableEq, Repr

/-- The host's program memory: bytes by rising address (log 12). -/
abbrev Memory := List Host.Cell

/-- The whole state: the device (R12 to R21), the host (R170), the parameters (R7), and three fields of the model's
own (`inputs`, `dataPins`, `draws`). -/
structure State where
  counter0 : Counter
  counter1 : Counter
  counter2 : Counter
  /-- `LATCH`, the one temporary register of the device (R20) -/
  latch : Option Latched
  host : HostRegs
  mem : Memory
  board : Board
  /-- the model's own: what happens next, oldest first (log 2) -/
  inputs : List Input
  /-- the model's own: what the device drove on D7-0 during the last bus event (log 13) -/
  dataPins : DataPins
  /-- the model's own: how many draws of a free value have been made (log 3) -/
  draws : Nat
deriving DecidableEq, Repr

/-- The machine's faults. The device raises none (R190), and the five host instructions raise none (R172 to R175). -/
inductive Fault where
  /-- Raised by the host's fetch when nothing has written the byte at the address. Safe: the spec gives program
  memory no contents, and the run stops instead of reading an invented byte (log 12). -/
  | unwrittenByte (address : Nat)
deriving DecidableEq, Repr

/-- The refusals. Twelve are the closed list of R191, "the spec declining to give an event a meaning"; a refusal is
safe: nothing is claimed about the run from there on. -/
inductive Refusal where
  /-- An instruction that exec rejects by name. No arm of exec answers it. Safe. -/
  | notModelled (mnemonic : String)
  /-- Control word with SC = 11 (R69, R191). Safe. -/
  | illegalSC
  /-- Control word with M = 110 or 111 (R70, R191). Safe. -/
  | illegalMode
  /-- Control word for a counter in the middle of a two-byte load or direct read (R61, R68, R191). Safe. -/
  | midSequence
  /-- Control word while a read-on-the-fly value waits to be read (R61, R68, R191). Safe. -/
  | latchPending
  /-- Access to a counter that no control word has set up (R76, R86, R68, R191). Safe. -/
  | unconfigured
  /-- Write between the two bytes of a read, or read between the two bytes of a load (R76, R86, R191). Safe. -/
  | interleave
  /-- One-byte load with `SINGLE_BYTE_OTHER` = refuse (R77, R191). Safe. -/
  | singleByte
  /-- Decimal load with a digit above 9 (R82, R191). Safe. -/
  | badBCD
  /-- Load of the count 0 (R82, R191). Safe. -/
  | zeroCount
  /-- Load of the count 1 in modes 2 to 5 (R82, R191). Safe. -/
  | countOne
  /-- Mode-0 load after the terminal count with `MODE0_RELOAD_AFTER_TC_OUT` = refuse (R101, R191). Safe. -/
  | mode0Reload
  /-- Copy of a counter register that is not completely loaded (R22, R191). Safe. -/
  | notLoaded
  /-- RD* = WR* = CS* = 0, no row of Table 25.1 and no event of the spec (R34, D17, U6; log 18). Safe. -/
  | bothLow
  /-- The decoder rejects a host byte or an event (R5, R57; log 22). Safe. -/
  | undecoded (e : DecodeError)
  /-- A running BCounter that stands for no number, or for 0: `dec1` and `val` are not defined there (R8, R100). No
  run from power-on reaches it (log 17). Safe. -/
  | undefinedCount
deriving DecidableEq, Repr

/-- A counter at power-on with its gate pin at `gateInit` (R28). Mode, BCD, RW, the phases and HALF are unspecified
and never read before they are written; their values here are the model's (log 6). -/
def Counter.powerOn (gateInit : Bool) : Counter :=
  { cfg := false, mode := .m0, bcd := false, rw := .lsms, crl := none, crm := none, bc := none, wph := .ls,
    rph := .ls, run := false, half := 0, out := .z, gate := gateInit }

/-- The machine at power-on on board `b`, with the gate pins at `GATE_INIT` = `g0`, `g1`, `g2` (R28). The host
registers are the model's choice (log 5). -/
def State.powerOn (b : Board) (g0 g1 g2 : Bool) : State :=
  { counter0 := Counter.powerOn g0, counter1 := Counter.powerOn g1, counter2 := Counter.powerOn g2, latch := none,
    host := { a := 0#8, d := 0#8, e := 0#8, pc := 0#16 }, mem := [], board := b, inputs := [], dataPins := .z,
    draws := 0 }

/-- 1 MHz, the "clock input period of 1 µs" of the examples (R221). -/
def ClkPeriod.oneMicrosecond : ClkPeriod := ⟨1000, by decide⟩

/-- The parameter values of `State.reset`: `PORT_BASE` = 80H as in the source's programs, and the choices of
logs 8 to 11. DESIGN CHOICE. -/
def Board.default : Board :=
  { portBase := 0x20#6, singleByteOther := .zero, mode0Reload := .free, wiring0 := .none, wiring1 := .none,
    wiring2 := .none, clkPeriod0 := .oneMicrosecond, clkPeriod1 := .oneMicrosecond,
    clkPeriod2 := .oneMicrosecond }

/-- The machine right after power-on, the only initial state: the device has no reset (R28, R210). The gates are at 1,
the convention of spec 95 section 0 (log 7). -/
def State.reset : State := State.powerOn Board.default true true true

end Sys2Proof.Machine
end

