-- ==== Sys2Proof/Machine/Operands.lean ====
section
/-! DEFINITION. Operand forms: the bytes of a count (R36, R54), the count a counter register holds (R13, R22), and the
port address of a host instruction (R35, R176). -/

namespace Sys2Proof.Machine

/-- Bits 7:0 of a count (R54). -/
def lsByte (w : Word) : Byte := w.extractLsb' 0 8

/-- Bits 15:8 of a count (R54). -/
def msByte (w : Word) : Byte := w.extractLsb' 8 8

/-- `byteLS` of R90: the LS byte, or `any8` (the use numbered `draw`) where there is no value. -/
def byteLS (x : Option Word) (draw : Nat) : Byte :=
  match x with
  | none => Config.any8 draw
  | some w => lsByte w

/-- `byteMS` of R90. -/
def byteMS (x : Option Word) (draw : Nat) : Byte :=
  match x with
  | none => Config.any8 draw
  | some w => msByte w

/-- `CR[n]` = `CRM[n] ++ CRL[n]`, "defined only when both bytes are" (R13). -/
def countRegister (c : Counter) : Option Word :=
  match c.crm, c.crl with
  | some m, some l => some (m ++ l)
  | some _, none => none
  | none, _ => none

/-- `CR[n]` where `Loaded(n)` of R22 holds: both bytes are defined and no two-byte load is half done. -/
def loadedCount (c : Counter) : Option Word :=
  match c.wph with
  | .ls => countRegister c
  | .ms => none

/-- `selects8253(a8)` of R176: the upper six bits of the port address are those of `PORT_BASE`. -/
def selects8253 (b : Board) (a8 : Byte) : Bool := a8.extractLsb' 2 6 == b.portBase

/-- A1 A0 of a host port address: its low two bits (R35, R176). -/
def devicePort (a8 : Byte) : BitVec 2 := a8.extractLsb' 0 2

end Sys2Proof.Machine
end

