-- ==== Sys2Proof/Machine/Flags.lean ====
section
/-! DEFINITION. The device's whole arithmetic (R8, R100, R185) and the comparisons that drive the output pin. The
device has no flags and no status register (R25), and the five host instructions change no flag (R170): there is no
flag computation. -/

namespace Sys2Proof.Machine

/-- Four BCD digits, most significant first, each of which must be 0 to 9 (R8). -/
def bcdDigits (w : Word) : Option (Nat × Nat × Nat × Nat) :=
  let d3 := (w.extractLsb' 12 4).toNat
  let d2 := (w.extractLsb' 8 4).toNat
  let d1 := (w.extractLsb' 4 4).toNat
  let d0 := (w.extractLsb' 0 4).toNat
  if d3 ≤ 9 ∧ d2 ≤ 9 ∧ d1 ≤ 9 ∧ d0 ≤ 9 then some (d3, d2, d1, d0) else none

/-- `val(w, b)` of R8: the number a word stands for in binary (`b` false) or in decimal (`b` true), `none` where a
decimal digit exceeds 9. -/
def val (w : Word) (b : Bool) : Option Nat :=
  if b then (bcdDigits w).map fun d => 1000 * d.1 + 100 * d.2.1 + 10 * d.2.2.1 + d.2.2.2 else some w.toNat

/-- `enc(k, b)` of R8, the inverse of `val`. -/
def enc (k : Nat) (b : Bool) : Word :=
  if b then
    BitVec.ofNat 4 (k / 1000) ++ BitVec.ofNat 4 (k / 100 % 10) ++ BitVec.ofNat 4 (k / 10 % 10)
      ++ BitVec.ofNat 4 (k % 10)
  else BitVec.ofNat 16 k

/-- `dec1(w, b)` of R8 and R100, "defined only for `val(w, b) >= 1`". -/
def dec1 (w : Word) (b : Bool) : Option Word :=
  match val w b with
  | some (k + 1) => some (enc k b)
  | some 0 => none
  | none => none

/-- Does the BCounter stand for the number `k`? -/
def countIs (c : Counter) (k : Nat) : Bool :=
  match c.bc with
  | some w => val w c.bcd == some k
  | none => false

/-- The terminal count: `BC[n]` = 0000H (R100). -/
def atTC (c : Counter) : Bool := c.bc == some 0#16

/-- `CheckCount(n)` of R82, its tests in that order, on the count `w`. -/
def checkCount (w : Word) (bcd : Bool) (m : Mode) : Except Refusal Unit :=
  match val w bcd with
  | none => .error .badBCD
  | some 0 => .error .zeroCount
  | some (k + 1) => if k = 0 ∧ m ≠ .m0 ∧ m ≠ .m1 then .error .countOne else .ok ()

end Sys2Proof.Machine
end

