-- ==== Sys2Proof/Machine/Counting.lean ====
section
/-! DEFINITION. How one counter reacts in each of the six modes to a completed load, to a clock pulse and to a gate
change (spec 43 to 48), on the counter's own components only (R29). -/

namespace Sys2Proof.Machine

/-! ## Shared acts -/

/-- `Copy(n)` of R22: the BCounter is loaded from the counter register. In mode 3 it also sets `HALF[n]` (R18). -/
def copyCount (c : Counter) : Except Refusal Counter :=
  match loadedCount c with
  | none => .error .notLoaded
  | some w =>
    if c.mode = .m3 then
      match val w c.bcd with
      | some k => .ok { c with bc := some w, half := k / 2 }
      | none => .error .undefinedCount
    else .ok { c with bc := some w }

/-- One count-down step, `BC[n] <- dec1(BC[n], BCD[n])` (R100). -/
def countDown (c : Counter) : Except Refusal Counter :=
  match c.bc with
  | none => .error .undefinedCount
  | some w =>
    match dec1 w c.bcd with
    | none => .error .undefinedCount
    | some w' => .ok { c with bc := some w' }

/-- Copy, then start (or restart) the count with the output at level `o`. -/
def startCount (c : Counter) (o : OutPin) : Except Refusal Counter :=
  match copyCount c with
  | .ok c' => .ok { c' with run := true, out := o }
  | .error r => .error r

/-- The output falls where the count has reached `k` (R124, R133, R144, R154). -/
def lowAt (k : Nat) (c : Counter) : Counter :=
  if countIs c k then { c with out := .lo } else c

/-- At the terminal count the output goes to 1 and the operation stops, `BC[n]` staying 0000H (R102, R114, R144,
R154). -/
def stopAtTC (c : Counter) : Counter :=
  if atTC c then { c with out := .hi, run := false } else c

/-- At the terminal count the output goes to 1; with the gate at 1 the BCounter is loaded again, with the gate at 0
"the operation stops" (R124, R133). -/
def reloadAtTC (c : Counter) : Except Refusal Counter :=
  if atTC c then
    if c.gate then copyCount { c with out := .hi } else .ok { c with out := .hi, run := false }
  else .ok c

/-! ## Completed loads -/

/-- The output level of a mode-0 reload after the terminal count, by `MODE0_RELOAD_AFTER_TC_OUT`; `level` is the
free value (R101, D24). -/
def reloadLevel (p : Mode0Reload) (level : Bool) : Except Refusal OutPin :=
  match p with
  | .refuse => .error .mode0Reload
  | .low => .ok .lo
  | .high => .ok .hi
  | .free => .ok (if level then .hi else .lo)

/-- `Load0(n)` (R101). "Loaded-before" is: `BC[n]` is not `none`. -/
def load0 (p : Mode0Reload) (level : Bool) (c : Counter) : Except Refusal Counter :=
  if c.bc.isSome && !c.run then
    match reloadLevel p level with
    | .error r => .error r
    | .ok o => startCount c o
  else startCount c c.out

/-- `Load1(n)`: nothing, the counter register already holds the new value (R111). -/
def load1 (c : Counter) : Except Refusal Counter := .ok c

/-- `Load2(n)`: the first load condition, "Gate = 1, counter is not presently running, but is loaded" (R121). -/
def load2 (c : Counter) : Except Refusal Counter :=
  if c.gate && !c.run then startCount c .hi else .ok c

/-- `Load3(n)` (R131). -/
def load3 (c : Counter) : Except Refusal Counter :=
  if c.gate && !c.run then startCount c .hi else .ok c

/-- `Load4(n)`: the load is the trigger (R141). -/
def load4 (c : Counter) : Except Refusal Counter := startCount c .hi

/-- `Load5(n)`: nothing, the counter register already holds the new value (R151). -/
def load5 (c : Counter) : Except Refusal Counter := .ok c

/-- `LoadComplete(n)` (R79): `CheckCount(n)`, then the load rule of the mode. -/
def loadComplete (p : Mode0Reload) (level : Bool) (c : Counter) : Except Refusal Counter :=
  match loadedCount c with
  | none => .error .notLoaded
  | some w =>
    match checkCount w c.bcd c.mode with
    | .error r => .error r
    | .ok () =>
      match c.mode with
      | .m0 => load0 p level c
      | .m1 => load1 c
      | .m2 => load2 c
      | .m3 => load3 c
      | .m4 => load4 c
      | .m5 => load5 c

/-- `WriteLSOnly(n, d)` (R77). -/
def writeLSOnly (b : Board) (level : Bool) (d : Byte) (c : Counter) : Except Refusal Counter :=
  match b.singleByteOther with
  | .refuse => .error .singleByte
  | .zero => loadComplete b.mode0Reload level { c with crl := some d, crm := some 0#8 }

/-- `WriteMSOnly(n, d)` (R77). -/
def writeMSOnly (b : Board) (level : Bool) (d : Byte) (c : Counter) : Except Refusal Counter :=
  match b.singleByteOther with
  | .refuse => .error .singleByte
  | .zero => loadComplete b.mode0Reload level { c with crm := some d, crl := some 0#8 }

/-- `WriteTwoByte(n, d)` (R78): the LS byte first; the MS byte completes the load. -/
def writeTwoByte (b : Board) (level : Bool) (d : Byte) (c : Counter) : Except Refusal Counter :=
  match c.wph with
  | .ls => .ok { c with crl := some d, wph := .ms }
  | .ms => loadComplete b.mode0Reload level { c with crm := some d, wph := .ls }

/-- The write of a byte in the counter's format (R76). -/
def writeByte (b : Board) (level : Bool) (d : Byte) (c : Counter) : Except Refusal Counter :=
  match c.rw with
  | .ls => writeLSOnly b level d c
  | .ms => writeMSOnly b level d c
  | .lsms => writeTwoByte b level d c

/-! ## Clock pulses -/

/-- `Clock0(n)` (R102). -/
def clock0 (c : Counter) : Except Refusal Counter :=
  if c.run && c.gate then
    match countDown c with
    | .error r => .error r
    | .ok c' => .ok (stopAtTC c')
  else .ok c

/-- `Clock1(n)` (R114): "the gate level is not consulted". -/
def clock1 (c : Counter) : Except Refusal Counter :=
  if c.run then
    match countDown c with
    | .error r => .error r
    | .ok c' => .ok (stopAtTC c')
  else .ok c

/-- `Clock2(n)` (R124). -/
def clock2 (c : Counter) : Except Refusal Counter :=
  if c.run then
    match countDown c with
    | .error r => .error r
    | .ok c' => reloadAtTC (lowAt 1 c')
  else .ok c

/-- `Clock3(n)` (R133). -/
def clock3 (c : Counter) : Except Refusal Counter :=
  if c.run then
    match countDown c with
    | .error r => .error r
    | .ok c' => reloadAtTC (lowAt c.half c')
  else .ok c

/-- `Clock4(n)` (R144). -/
def clock4 (c : Counter) : Except Refusal Counter :=
  if c.run && c.gate then
    match countDown c with
    | .error r => .error r
    | .ok c' => .ok (stopAtTC (lowAt 1 c'))
  else .ok c

/-- `Clock5(n)` (R154). -/
def clock5 (c : Counter) : Except Refusal Counter :=
  if c.run then
    match countDown c with
    | .error r => .error r
    | .ok c' => .ok (stopAtTC (lowAt 1 c'))
  else .ok c

/-- `ClockPulse(n)`: no change before the counter is set up (R212), then the rule of the mode. -/
def clockCounter (c : Counter) : Except Refusal Counter :=
  if c.cfg then
    match c.mode with
    | .m0 => clock0 c
    | .m1 => clock1 c
    | .m2 => clock2 c
    | .m3 => clock3 c
    | .m4 => clock4 c
    | .m5 => clock5 c
  else .ok c

/-! ## Gate changes -/

/-- `Gate0(n, v)` (R103) and `Gate4(n, v)` (R143): the gate acts through its level only. -/
def gateLevel (v : Bool) (c : Counter) : Except Refusal Counter := .ok { c with gate := v }

/-- A rise triggers the count with the output at `o`; a fall changes `GATE[n]` alone. -/
def gateTrigger (o : OutPin) (v : Bool) (c : Counter) : Except Refusal Counter :=
  if v then startCount { c with gate := true } o else .ok { c with gate := false }

/-- `GateSet(n, v)` in the counter's mode: modes 0 and 4 (R103, R143), the trigger of mode 1 to the quasi-stable
state 0 (R112, R113), the triggers of modes 2, 3 and 5 (R122, R123, R132, R152, R153). -/
def gateInMode (v : Bool) (c : Counter) : Except Refusal Counter :=
  match c.mode with
  | .m0 => gateLevel v c
  | .m1 => gateTrigger .lo v c
  | .m2 => gateTrigger .hi v c
  | .m3 => gateTrigger .hi v c
  | .m4 => gateLevel v c
  | .m5 => gateTrigger .hi v c

/-- `GateSet(n, v)`: nothing when `v` is the present level (R24), the level alone before the counter is set up
(R212), else the rule of the mode. -/
def gateCounter (v : Bool) (c : Counter) : Except Refusal Counter :=
  if v = c.gate then .ok c
  else if c.cfg then gateInMode v c
  else .ok { c with gate := v }

/-! ## Mode setting -/

/-- The output level a mode-setting word gives: 0 in mode 0, 1 in modes 1 to 5 (R61 to R67). -/
def initialOut (m : Mode) : OutPin := if m = .m0 then .lo else .hi

/-- The writes of `ModeSet(n, rw, m, bcd)` (R61). -/
def setUp (rw : RW) (m : Mode) (bcd : Bool) (c : Counter) : Counter :=
  { c with cfg := true, mode := m, bcd := bcd, rw := rw, wph := .ls, rph := .ls, crl := none, crm := none,
           bc := none, run := false, out := initialOut m }

end Sys2Proof.Machine
end

