-- ==== Sys2Proof/Machine/Ops.lean ====
section
/-! DEFINITION. The named operations over the whole state: access to a counter, the bus operations of the device
(R32, R33, R60, R76, R86), the pin events (R24), program memory and the host registers. The device takes no exception
and returns from none (R190), so there is no such operation here. -/

namespace Sys2Proof.Machine

/-- What a meaning answers. -/
abbrev Result := Host.Outcome State Fault Refusal

/-- Go on with `f` after a next state; stop where `o` stops. -/
def andThen (o : Result) (f : State → Result) : Result :=
  match o with
  | .next s => f s
  | .fault r => .fault r
  | .refused r => .refused r

/-! ## Counters -/

/-- The components of Counter n. -/
def State.ctr (s : State) (n : CtrIdx) : Counter :=
  match n with
  | .c0 => s.counter0
  | .c1 => s.counter1
  | .c2 => s.counter2

/-- Replace the components of Counter n, and nothing else (R29). -/
def State.setCtr (s : State) (n : CtrIdx) (c : Counter) : State :=
  match n with
  | .c0 => { s with counter0 := c }
  | .c1 => { s with counter1 := c }
  | .c2 => { s with counter2 := c }

/-- An event that only Counter n reacts to (R29). -/
def onCounter (n : CtrIdx) (f : Counter → Except Refusal Counter) (s : State) : Result :=
  match f (s.ctr n) with
  | .ok c => .next (s.setCtr n c)
  | .error r => .refused r

/-- Is a read-on-the-fly value of Counter n waiting, with any number of bytes left? -/
def latchIsOf (l : Option Latched) (n : CtrIdx) : Bool :=
  match l with
  | some x => x.counter == n
  | none => false

/-- Is Counter n between the two reads of its read-on-the-fly value? -/
def latchHalfRead (l : Option Latched) (n : CtrIdx) : Bool :=
  match l with
  | some x => x.counter == n && x.left == .one
  | none => false

/-- Is a two-byte load or a two-byte direct read of the counter half done? -/
def midSequence (c : Counter) : Bool := c.wph == .ms || c.rph == .ms

/-! ## The data pins -/

/-- "D7-0 will be tristated" (R34); during a write the device drives nothing either (R23). -/
def State.tristate (s : State) : State := { s with dataPins := .z }

/-- The device drives `b` on D7-0; the read has taken one draw of `any8`, used or not. -/
def State.drive (s : State) (b : Byte) : State := { s with dataPins := .driven b, draws := s.draws + 1 }

/-- One draw of a free value has been offered. -/
def State.drawn (s : State) : State := { s with draws := s.draws + 1 }

/-! ## Control-port writes -/

/-- `ModeSet(n, rw, m, bcd)` (R61). Its two refusals "apply only when `CFG[n]` is already true". -/
def modeSet (n : CtrIdx) (rw : RW) (m : Mode) (bcd : Bool) (s : State) : Result :=
  if (s.ctr n).cfg && midSequence (s.ctr n) then .refused .midSequence
  else if (s.ctr n).cfg && latchIsOf s.latch n then .refused .latchPending
  else .next (s.setCtr n (setUp rw m bcd (s.ctr n))).tristate

/-- `Latch(n)`, the read-on-the-fly command (R68). -/
def latchCommand (n : CtrIdx) (s : State) : Result :=
  if !(s.ctr n).cfg then .refused .unconfigured
  else if s.latch.isSome then .refused .latchPending
  else if midSequence (s.ctr n) then .refused .midSequence
  else .next { s.tristate with latch := some { counter := n, value := (s.ctr n).bc, left := .two } }

/-- `ControlWrite(d)` (R60), its tests in that order. -/
def controlWrite (d : Byte) (s : State) : Result :=
  match ctrOfBits (cwSC d) with
  | none => .refused .illegalSC
  | some n =>
    match rwOfBits (cwRW d) with
    | none => latchCommand n s
    | some rw =>
      match modeOfBits (cwM d) with
      | none => .refused .illegalMode
      | some m => modeSet n rw m (cwBCD d) s

/-! ## Counter-port writes -/

/-- `CounterWrite(n, d)` (R76). A write is offered one draw of the free output level of R101. -/
def counterWrite (n : CtrIdx) (d : Byte) (s : State) : Result :=
  if !(s.ctr n).cfg then .refused .unconfigured
  else if (s.ctr n).rph == .ms || latchHalfRead s.latch n then .refused .interleave
  else onCounter n (writeByte s.board (Config.mode0ReloadLevel s.draws) d) s.tristate.drawn

/-! ## Counter-port reads -/

/-- `DirectRead(n)` (R90). -/
def directRead (n : CtrIdx) (s : State) : State :=
  let c := s.ctr n
  match c.rw with
  | .ls => s.drive (byteLS c.bc s.draws)
  | .ms => s.drive (byteMS c.bc s.draws)
  | .lsms =>
    match c.rph with
    | .ls => (s.setCtr n { c with rph := .ms }).drive (byteLS c.bc s.draws)
    | .ms => (s.setCtr n { c with rph := .ls }).drive (byteMS c.bc s.draws)

/-- `LatchedRead(n, v, k)` (R89). -/
def latchedRead (n : CtrIdx) (v : Option Word) (k : BytesLeft) (s : State) : State :=
  match k with
  | .two => State.drive { s with latch := some { counter := n, value := v, left := .one } } (byteLS v s.draws)
  | .one => State.drive { s with latch := none } (byteMS v s.draws)

/-- The read of R86 once it is not refused: the captured value where one of Counter n waits, else the count. -/
def readCounter (n : CtrIdx) (s : State) : State :=
  match s.latch with
  | some x => if x.counter = n then latchedRead n x.value x.left s else directRead n s
  | none => directRead n s

/-- `CounterRead(n)` (R86). -/
def counterRead (n : CtrIdx) (s : State) : Result :=
  if !(s.ctr n).cfg then .refused .unconfigured
  else if (s.ctr n).wph == .ms then .refused .interleave
  else .next (readCounter n s)

/-! ## Bus operations -/

/-- A bus state in which the device does nothing (R34). -/
def busNop (s : State) : Result := .next s.tristate

/-- `PortWrite(a, d)` (R32). -/
def portWrite (a : BitVec 2) (d : Byte) (s : State) : Result :=
  match ctrOfBits a with
  | none => controlWrite d s
  | some n => counterWrite n d s

/-- `PortRead(a)` (R33); the byte is left on the data pins. -/
def portRead (a : BitVec 2) (s : State) : Result :=
  match ctrOfBits a with
  | none => busNop s
  | some n => counterRead n s

/-! ## Pin events -/

/-- `ClockPulse(n)` (R24). -/
def clockPulse (n : CtrIdx) (s : State) : Result := onCounter n clockCounter s

/-- `GateSet(n, v)` (R24). -/
def setGate (n : CtrIdx) (v : Bool) (s : State) : Result := onCounter n (gateCounter v) s

/-! ## Program memory -/

/-- The canonical form: addresses strictly rising and below 10000H. An unlisted byte reads as no value, so no entry
can equal what an unlisted address reads as. -/
def Memory.wf (m : Memory) : Bool :=
  match m with
  | [] => true
  | x :: rest => decide (x.1 < 65536) && rest.all (fun y => decide (x.1 < y.1)) && Memory.wf rest

/-- What program memory holds at an address; nothing where nothing has been written (log 12). -/
def Memory.read (m : Memory) (a : Nat) : Option Byte :=
  match m with
  | [] => none
  | x :: rest => if x.1 = a then some x.2 else Memory.read rest a

/-- Write one byte, keeping the canonical form. -/
def Memory.write (m : Memory) (a : Nat) (b : Byte) : Memory :=
  match m with
  | [] => [(a, b)]
  | x :: rest =>
    if a < x.1 then (a, b) :: x :: rest
    else if a = x.1 then (a, b) :: rest
    else x :: Memory.write rest a b

/-! ## The host -/

/-- "After fetching the byte ... the PC is automatically incremented by 1" (R171). Past FFFFH the value is free
(log 4). -/
def pcNext (pc : Word) : Word := if pc = 0xFFFF#16 then Config.pcPastTop else pc + 1#16

/-- The PC after an instruction of one byte (R171). -/
def State.pcBy1 (s : State) : State := { s with host := { s.host with pc := pcNext s.host.pc } }

/-- The PC after an instruction of two bytes (R171). -/
def State.pcBy2 (s : State) : State := { s with host := { s.host with pc := pcNext (pcNext s.host.pc) } }

/-- Write the accumulator. -/
def State.setA (s : State) (b : Byte) : State := { s with host := { s.host with a := b } }

/-- The host's I/O write cycle (R173): the device sees it where its port is addressed, and is deselected otherwise. -/
def hostOut (a8 : Byte) (s : State) : Result :=
  if selects8253 s.board a8 then portWrite (devicePort a8) s.host.a s else busNop s

/-- The host's I/O read cycle (R174). -/
def hostIn (a8 : Byte) (s : State) : Result :=
  if selects8253 s.board a8 then portRead (devicePort a8) s else busNop s

/-- What the host takes from D7-0 at the end of a read: the byte the device drives, or `any8` where it drives none
(R34, R93, U5, U30). -/
def State.receive (s : State) : State :=
  match s.dataPins with
  | .driven b => s.setA b
  | .z => (s.setA (Config.any8 s.draws)).drawn

end Sys2Proof.Machine
end

