-- ==== Sys2Proof/Machine/Bus.lean ====
section
/-! DEFINITION. The meanings of the `BUS` rows: Table 25.1 (R45). -/

namespace Sys2Proof.Machine

/-- `BUS.RD_C0`: `BusRead(0)` (R33, R86). -/
def execBusRdC0 (s : State) : Result := portRead 0#2 s

/-- `BUS.RD_C1`: `BusRead(1)` (R33, R86). -/
def execBusRdC1 (s : State) : Result := portRead 1#2 s

/-- `BUS.RD_C2`: `BusRead(2)` (R33, R86). -/
def execBusRdC2 (s : State) : Result := portRead 2#2 s

/-- `BUS.RD_CTL_NOP`: `BusRead(3)`, "No operation", D7-0 tristated (R33, R34, R93). -/
def execBusRdCtlNop (s : State) : Result := portRead 3#2 s

/-- `BUS.WR_C0`: `BusWrite(0, d)` (R32, R76). -/
def execBusWrC0 (d : Byte) (s : State) : Result := portWrite 0#2 d s

/-- `BUS.WR_C1`: `BusWrite(1, d)` (R32, R76). -/
def execBusWrC1 (d : Byte) (s : State) : Result := portWrite 1#2 d s

/-- `BUS.WR_C2`: `BusWrite(2, d)` (R32, R76). -/
def execBusWrC2 (d : Byte) (s : State) : Result := portWrite 2#2 d s

/-- `BUS.WR_CTL`: `BusWrite(3, d)` (R32, R60). -/
def execBusWrCtl (d : Byte) (s : State) : Result := portWrite 3#2 d s

/-- `BUS.NOP_DESELECTED`: `BusIdle`, CS* = 1, "whatever the other pins" (R34). -/
def execBusNopDeselected (_pins : BitVec 5) (s : State) : Result := busNop s

/-- `BUS.NOP_IDLE`: `BusIdle`, CS* = 0 with RD* = WR* = 1, whatever A1 A0 are (R34). -/
def execBusNopIdle (_pins : BitVec 5) (s : State) : Result := busNop s

/-- `BUS.RDWR_BOTH_LOW`: not a row of Table 25.1 and no event of the spec; "a model with another host must `refuse`"
(R34, D17, U6; log 18). -/
def execBusRdwrBothLow (_pins : BitVec 5) (_s : State) : Result := .refused .bothLow

end Sys2Proof.Machine
end

