-- ==== Sys2Proof/Machine/ControlWord.lean ====
section
/-! DEFINITION. The meanings of the `CW` rows: a byte written to the control port (spec 40). -/

namespace Sys2Proof.Machine

/-- `CW.ILLEGAL_SC`: "11 = Illegal", and no effect is given (R69, D29). -/
def execCwIllegalSc (_w : Byte) (_s : State) : Result := .refused .illegalSC

/-- `CW.LATCH`: the read-on-the-fly command; its low four bits are ignored (R68). -/
def execCwLatch (n : CtrIdx) (_x : BitVec 4) (s : State) : Result := latchCommand n s

/-- `CW.MODE0`, interrupt on terminal count: "the output will become logic 0" (R62). -/
def execCwMode0 (n : CtrIdx) (rw : RW) (bcd : Bool) (s : State) : Result := modeSet n rw .m0 bcd s

/-- `CW.MODE1`, re-triggerable mono-stable multi (R63). -/
def execCwMode1 (n : CtrIdx) (rw : RW) (bcd : Bool) (s : State) : Result := modeSet n rw .m1 bcd s

/-- `CW.MODE2`, rate generator (R64). -/
def execCwMode2 (n : CtrIdx) (rw : RW) (bcd : Bool) (s : State) : Result := modeSet n rw .m2 bcd s

/-- `CW.MODE3`, square wave generator (R65). -/
def execCwMode3 (n : CtrIdx) (rw : RW) (bcd : Bool) (s : State) : Result := modeSet n rw .m3 bcd s

/-- `CW.MODE4`, software-triggered strobe (R66). -/
def execCwMode4 (n : CtrIdx) (rw : RW) (bcd : Bool) (s : State) : Result := modeSet n rw .m4 bcd s

/-- `CW.MODE5`, hardware-triggered strobe (R67). -/
def execCwMode5 (n : CtrIdx) (rw : RW) (bcd : Bool) (s : State) : Result := modeSet n rw .m5 bcd s

/-- `CW.ILLEGAL_MODE`: "110 = Illegal", "111 = Illegal", and no effect is given (R70, D29). -/
def execCwIllegalMode (_w : Byte) (_s : State) : Result := .refused .illegalMode

end Sys2Proof.Machine
end

