-- ==== Sys2Proof/Machine/CounterPort.lean ====
section
/-! DEFINITION. The meanings of the `DATA` rows: a byte at a counter port (spec 41, 42). -/

namespace Sys2Proof.Machine

/-- `CNT.WR`: byte `d` written to the port of Counter n (R76 to R82). -/
def execCntWr (n : CtrIdx) (d : Byte) (s : State) : Result := counterWrite n d s

/-- `CNT.RD`: a byte read from the port of Counter n, left on the data pins (R86, R89, R90). -/
def execCntRd (n : CtrIdx) (s : State) : Result := counterRead n s

end Sys2Proof.Machine
end

