-- ==== Sys2Proof/Machine/HostInstr.lean ====
section
/-! DEFINITION. The meanings of the `8085` rows: the five host instructions (spec 49). None changes a flag (R170) and
none raises an exception (R172 to R175). -/

namespace Sys2Proof.Machine

/-- `MVI A, d8`: `A <- d8; pc <- pc + 2` (R172). -/
def execMviA (d8 : Byte) (s : State) : Result := .next (s.setA d8).pcBy2

/-- `OUT a8`: `PortWrite(a8, A); pc <- pc + 2` (R173). -/
def execOutA8 (a8 : Byte) (s : State) : Result := andThen (hostOut a8 s) fun t => .next t.pcBy2

/-- `IN a8`: `A <- PortRead(a8); pc <- pc + 2` (R174). -/
def execInA8 (a8 : Byte) (s : State) : Result := andThen (hostIn a8 s) fun t => .next t.receive.pcBy2

/-- `MOV E, A`: `E <- A; pc <- pc + 1` (R175). -/
def execMovEA (s : State) : Result := .next (State.pcBy1 { s with host := { s.host with e := s.host.a } })

/-- `MOV D, A`: `D <- A; pc <- pc + 1` (R175). -/
def execMovDA (s : State) : Result := .next (State.pcBy1 { s with host := { s.host with d := s.host.a } })

end Sys2Proof.Machine
end

