-- ==== Sys2Proof/Machine/Pins.lean ====
section
/-! DEFINITION. The meanings of the `PIN` rows: the events of the clock and gate sources (R24, R58). The row of an
event is chosen by `MODE[n]`; "an event for a counter with `CFG[n]` false is not looked up at all" (R58, R212). -/

namespace Sys2Proof.Machine

/-- `CLK.PULSE`: one whole pulse on CLK n (R102, R114, R124, R133, R144, R154, R212). -/
def execClkPulse (n : CtrIdx) (s : State) : Result := clockPulse n s

/-- `GATE.SET`: Gate n takes level v (R103, R112, R113, R122, R123, R132, R143, R152, R153, R212). -/
def execGateSet (n : CtrIdx) (v : Bool) (s : State) : Result := setGate n v s

end Sys2Proof.Machine
end

