-- ==== Sys2Proof/Machine/Dispatch.lean ====
section
/-! DEFINITION. The meaning of every instruction, one arm per constructor. -/

namespace Sys2Proof.Machine

def exec (i : Instr) (s : State) : Host.Outcome State Fault Refusal :=
  match i with
  | .busRdC0 => Sys2Proof.Machine.execBusRdC0 s
  | .busRdC1 => Sys2Proof.Machine.execBusRdC1 s
  | .busRdC2 => Sys2Proof.Machine.execBusRdC2 s
  | .busRdCtlNop => Sys2Proof.Machine.execBusRdCtlNop s
  | .busWrC0 d => Sys2Proof.Machine.execBusWrC0 d s
  | .busWrC1 d => Sys2Proof.Machine.execBusWrC1 d s
  | .busWrC2 d => Sys2Proof.Machine.execBusWrC2 d s
  | .busWrCtl d => Sys2Proof.Machine.execBusWrCtl d s
  | .busNopDeselected pins => Sys2Proof.Machine.execBusNopDeselected pins s
  | .busNopIdle pins => Sys2Proof.Machine.execBusNopIdle pins s
  | .busRdwrBothLow pins => Sys2Proof.Machine.execBusRdwrBothLow pins s
  | .cwIllegalSc w => Sys2Proof.Machine.execCwIllegalSc w s
  | .cwLatch n x => Sys2Proof.Machine.execCwLatch n x s
  | .cwMode0 n rw bcd => Sys2Proof.Machine.execCwMode0 n rw bcd s
  | .cwMode1 n rw bcd => Sys2Proof.Machine.execCwMode1 n rw bcd s
  | .cwMode2 n rw bcd => Sys2Proof.Machine.execCwMode2 n rw bcd s
  | .cwMode3 n rw bcd => Sys2Proof.Machine.execCwMode3 n rw bcd s
  | .cwMode4 n rw bcd => Sys2Proof.Machine.execCwMode4 n rw bcd s
  | .cwMode5 n rw bcd => Sys2Proof.Machine.execCwMode5 n rw bcd s
  | .cwIllegalMode w => Sys2Proof.Machine.execCwIllegalMode w s
  | .cntWr n d => Sys2Proof.Machine.execCntWr n d s
  | .cntRd n => Sys2Proof.Machine.execCntRd n s
  | .clkPulse n => Sys2Proof.Machine.execClkPulse n s
  | .gateSet n v => Sys2Proof.Machine.execGateSet n v s
  | .mviA d8 => Sys2Proof.Machine.execMviA d8 s
  | .outA8 a8 => Sys2Proof.Machine.execOutA8 a8 s
  | .inA8 a8 => Sys2Proof.Machine.execInA8 a8 s
  | .movEA => Sys2Proof.Machine.execMovEA s
  | .movDA => Sys2Proof.Machine.execMovDA s

end Sys2Proof.Machine
end

