-- ==== Sys2Proof/Machine/Fetch.lean ====
section
/-! DEFINITION. What the next step runs: the event at the head of `inputs`, or the instruction at the host's PC
(logs 1, 2); and placing an instruction there. -/

namespace Sys2Proof.Machine

/-- One byte of the host's program. -/
def fetchByte (m : Memory) (pc : Word) : Except Fault Byte :=
  match Memory.read m pc.toNat with
  | some b => .ok b
  | none => .error (.unwrittenByte pc.toNat)

/-- The bytes of the instruction at `pc`, one or two (R57, R171). -/
def fetchCode (m : Memory) (pc : Word) : Except Fault (List Byte) :=
  match fetchByte m pc with
  | .error e => .error e
  | .ok op =>
    if takesOperand op then
      match fetchByte m (pcNext pc) with
      | .error e => .error e
      | .ok b => .ok [op, b]
    else .ok [op]

/-- What the next step decodes: the queue's head, or the host's bytes where the head is `host` or the queue is
empty. -/
def nextEncoding (s : State) : Except Fault Encoding :=
  match s.inputs with
  | .event x :: _ => .ok (.wire x)
  | .host :: _ => (fetchCode s.mem s.host.pc).map Encoding.code
  | [] => (fetchCode s.mem s.host.pc).map Encoding.code

/-- The state in which the instruction runs: the head of the queue is used up. -/
def State.popInput (s : State) : State := { s with inputs := s.inputs.tail }

/-- Write the bytes of a host instruction from `pc` on. -/
def writeCode (m : Memory) (pc : Word) (bytes : List Byte) : Memory :=
  match bytes with
  | [] => m
  | b :: rest => writeCode (Memory.write m pc.toNat b) (pcNext pc) rest

/-- Put an encoding where the next step finds it: an event at the head of the queue; a host instruction at PC, with
the host to move. -/
def placeEncoding (s : State) (e : Encoding) : State :=
  match e with
  | .wire x => { s with inputs := .event x :: s.inputs }
  | .code bytes => { s with inputs := .host :: s.inputs, mem := writeCode s.mem s.host.pc bytes }

/-- The number `w` of `nbits` bits placed as `tableEncoding` takes it; a width no format has is placed as host bytes,
which the decoder rejects. -/
def placeWord (s : State) (nbits w : Nat) : State :=
  match tableEncoding nbits w with
  | some e => placeEncoding s e
  | none => placeEncoding s (codeOfNumber w)

end Sys2Proof.Machine
end

