-- ==== Sys2Proof/Machine/Step.lean ====
section
/-! DEFINITION. One step: fetch, decode, run (R10, R24; logs 1, 2). -/

namespace Sys2Proof.Machine

/-- The next event or host instruction happens. -/
def step (s : State) : Host.Outcome State Fault Refusal :=
  match nextEncoding s with
  | .error f => .fault f
  | .ok e =>
    match decode e with
    | .error d => .refused (.undecoded d)
    | .ok i => exec i s.popInput

/-- `s` with the instruction of `nbits` bits numbered `w` placed where the next step finds it. -/
def State.withFetchWord (s : State) (nbits w : Nat) : State := placeWord s nbits w

end Sys2Proof.Machine
end

