-- ==== Sys2Proof/Machine/Interrupt.lean ====
section
/-! DEFINITION. What leaves the machine beside the data pins: the output pins as interrupt requests (R193 to R195),
and pulse counts as times (R221). Nothing here changes the state; the 8085's recognition and entry are out of scope
(R5, R196; log 19). -/

namespace Sys2Proof.Machine

/-- The interrupt pins of the 8085 (R195). -/
inductive IrqPin where
  | trap
  | rst75
  | rst65
  | rst55
  | intr
deriving DecidableEq, Repr

/-- How a pin is triggered (R195). -/
inductive Trigger where
  | edgeAndLevel
  | edge
  | level
deriving DecidableEq, Repr

/-- What Out n is wired to (R7, R194). -/
def wiringOf (b : Board) (n : CtrIdx) : Wiring :=
  match n with
  | .c0 => b.wiring0
  | .c1 => b.wiring1
  | .c2 => b.wiring2

/-- The interrupt pin that a wiring reaches, if any. -/
def irqPinOf : Wiring → Option IrqPin
  | .none => none
  | .trap => some .trap
  | .rst75 => some .rst75
  | .rst65 => some .rst65
  | .rst55 => some .rst55
  | .intr => some .intr
  | .other => none

/-- The pin on which Counter n requests an interrupt: "the request is pending while `OUT[n]` = 1" (R193). -/
def interruptRequest (s : State) (n : CtrIdx) : Option IrqPin :=
  if (s.ctr n).out = .hi then irqPinOf (wiringOf s.board n) else none

/-- Priority, 0 the highest (R195). -/
def irqPriority : IrqPin → Nat
  | .trap => 0
  | .rst75 => 1
  | .rst65 => 2
  | .rst55 => 3
  | .intr => 4

/-- Triggering (R195). -/
def irqTrigger : IrqPin → Trigger
  | .trap => .edgeAndLevel
  | .rst75 => .edge
  | .rst65 => .level
  | .rst55 => .level
  | .intr => .level

/-- Maskable by SIM; by the IE flip-flop, every pin but TRAP (R195). -/
def irqMaskableBySim : IrqPin → Bool
  | .trap => false
  | .rst75 => true
  | .rst65 => true
  | .rst55 => true
  | .intr => false

/-- Subject to the IE flip-flop (R195). -/
def irqNeedsEnable : IrqPin → Bool
  | .trap => false
  | .rst75 => true
  | .rst65 => true
  | .rst55 => true
  | .intr => true

/-- The vector; INTR's is supplied by the interrupting device (R195; RST5.5 by conflict C6). -/
def irqVector : IrqPin → Option Word
  | .trap => some 0x0024#16
  | .rst75 => some 0x003C#16
  | .rst65 => some 0x0034#16
  | .rst55 => some 0x002C#16
  | .intr => none

/-- `CLK_PERIOD[n]` in nanoseconds (R7). -/
def clkPeriodNs (b : Board) (n : CtrIdx) : Rat :=
  match n with
  | .c0 => b.clkPeriod0.ns
  | .c1 => b.clkPeriod1.ns
  | .c2 => b.clkPeriod2.ns

/-- The time in nanoseconds that `k` pulses on CLK n take; no rule depends on it (R221, D27). -/
def pulseTimeNs (b : Board) (n : CtrIdx) (k : Nat) : Rat := k * clkPeriodNs b n

/-- 1.5 MHz, a period of 2/3 µs = 2000/3 ns (R199, R221). -/
def ClkPeriod.kitClk1 : ClkPeriod := ⟨{ num := 2000, den := 3 }, by decide⟩

/-- A board with what the source gives of the ALS-SDA-85 kit: ports C8H to CBH, Clk1, and Out 1 as the clock of the
8251 (R7, R199). What Out 0 and Out 2 drive, and the other clocks, it does not give (R194, R203): they are those of `b`.
That Out 1 drives no interrupt pin besides the 8251 is DEDUCED (log 27). -/
def Board.onKit (b : Board) : Board :=
  { b with portBase := 0x32#6, wiring1 := .other, clkPeriod1 := .kitClk1 }

end Sys2Proof.Machine
end

