-- ==== Sys2Proof/Safety.lean ====
section
/-! DEFINITION. The terms claims are made in: runs of events, which counter an event is for, and the invariants of a
device that has been driven from power-on. -/

namespace Sys2Proof.Machine

/-- The next state of a result, if it has one. -/
def nextState (o : Result) : Option State :=
  match o with
  | .next s => some s
  | .fault _ => none
  | .refused _ => none

/-- The reason of a refusal, if the result is one. -/
def refusalOf (o : Result) : Option Refusal :=
  match o with
  | .next _ => none
  | .fault _ => none
  | .refused r => some r

/-- A sequence of events and host instructions, one after the other (R24). -/
def execAll (is : List Instr) (s : State) : Result :=
  match is with
  | [] => .next s
  | i :: rest => andThen (exec i s) (execAll rest)

/-- `k` successive pulses on CLK n. -/
def pulses (n : CtrIdx) (k : Nat) (s : State) : Result := execAll (List.replicate k (.clkPulse n)) s

/-! ## Which counter an event is for (R10, R29) -/

/-- The counter that a byte written to device port `a` is for: the port's own, or the one a control word selects. -/
def writeTarget (a : BitVec 2) (d : Byte) : Option CtrIdx :=
  match ctrOfBits a with
  | some n => some n
  | none => ctrOfBits (cwSC d)

/-- The counter that a bus operation of the instruction is for. -/
def busTarget (s : State) (i : Instr) : Option CtrIdx :=
  match i with
  | .busRdC0 => some .c0
  | .busRdC1 => some .c1
  | .busRdC2 => some .c2
  | .busRdCtlNop => none
  | .busWrC0 _ => some .c0
  | .busWrC1 _ => some .c1
  | .busWrC2 _ => some .c2
  | .busWrCtl d => ctrOfBits (cwSC d)
  | .busNopDeselected _ => none
  | .busNopIdle _ => none
  | .busRdwrBothLow _ => none
  | .cwIllegalSc _ => none
  | .cwLatch n _ => some n
  | .cwMode0 n _ _ => some n
  | .cwMode1 n _ _ => some n
  | .cwMode2 n _ _ => some n
  | .cwMode3 n _ _ => some n
  | .cwMode4 n _ _ => some n
  | .cwMode5 n _ _ => some n
  | .cwIllegalMode w => ctrOfBits (cwSC w)
  | .cntWr n _ => some n
  | .cntRd n => some n
  | .clkPulse _ => none
  | .gateSet _ _ => none
  | .mviA _ => none
  | .outA8 a8 => if selects8253 s.board a8 then writeTarget (devicePort a8) s.host.a else none
  | .inA8 a8 => if selects8253 s.board a8 then ctrOfBits (devicePort a8) else none
  | .movEA => none
  | .movDA => none

/-- The counter whose clock or gate pin the event is on. -/
def pinTarget (i : Instr) : Option CtrIdx :=
  match i with
  | .clkPulse n => some n
  | .gateSet n _ => some n
  | .busRdC0 | .busRdC1 | .busRdC2 | .busRdCtlNop | .busWrC0 _ | .busWrC1 _ | .busWrC2 _ | .busWrCtl _
  | .busNopDeselected _ | .busNopIdle _ | .busRdwrBothLow _ | .cwIllegalSc _ | .cwLatch _ _ | .cwMode0 _ _ _
  | .cwMode1 _ _ _ | .cwMode2 _ _ _ | .cwMode3 _ _ _ | .cwMode4 _ _ _ | .cwMode5 _ _ _ | .cwIllegalMode _
  | .cntWr _ _ | .cntRd _ | .mviA _ | .outA8 _ | .inA8 _ | .movEA | .movDA => none

/-- No bus operation of the sequence, run from `s`, is for Counter n. -/
def quietFor (n : CtrIdx) (is : List Instr) (s : State) : Prop :=
  match is with
  | [] => True
  | i :: rest => busTarget s i ≠ some n ∧ ∀ t, exec i s = .next t → quietFor n rest t

/-! ## Writes and reads of a counter port, in each of their rows -/

/-- The `BUS` row that writes `d` to the port of Counter n (R45). -/
def busWriteOf (n : CtrIdx) (d : Byte) : Instr :=
  match n with
  | .c0 => .busWrC0 d
  | .c1 => .busWrC1 d
  | .c2 => .busWrC2 d

/-- The `BUS` row that reads the port of Counter n (R45). -/
def busReadOf (n : CtrIdx) : Instr :=
  match n with
  | .c0 => .busRdC0
  | .c1 => .busRdC1
  | .c2 => .busRdC2

/-- `i` writes the byte `d` to the port of Counter n: the data row `CNT.WR` or the bus row of that port. -/
def WritesPort (i : Instr) (n : CtrIdx) (d : Byte) : Prop := i = .cntWr n d ∨ i = busWriteOf n d

/-- `i` reads the port of Counter n: the data row `CNT.RD` or the bus row of that port. -/
def ReadsPort (i : Instr) (n : CtrIdx) : Prop := i = .cntRd n ∨ i = busReadOf n

/-- A write to the port of a counter is admitted: it is set up and not between the two bytes of a read (R76). -/
def WriteAdmitted (s : State) (n : CtrIdx) : Prop :=
  (s.ctr n).cfg = true ∧ (s.ctr n).rph = .ls ∧ latchHalfRead s.latch n = false

/-- A read of the port of a counter is admitted: it is set up and not between the two bytes of a load (R86). -/
def ReadAdmitted (s : State) (n : CtrIdx) : Prop := (s.ctr n).cfg = true ∧ (s.ctr n).wph = .ls

/-- The counter with the byte `d` stored, where that byte completes a load: the MS byte of a two-byte load (R78), or
the one byte of a one-byte load with the other byte 00H (R77). Nothing for the LS byte of a two-byte load, and
nothing for a one-byte load that `SINGLE_BYTE_OTHER` refuses. -/
def completedBy (b : Board) (d : Byte) (c : Counter) : Option Counter :=
  match c.rw with
  | .lsms =>
    match c.wph with
    | .ls => none
    | .ms => some { c with crm := some d, wph := .ls }
  | .ls =>
    match b.singleByteOther with
    | .refuse => none
    | .zero => some { c with crl := some d, crm := some 0#8 }
  | .ms =>
    match b.singleByteOther with
    | .refuse => none
    | .zero => some { c with crm := some d, crl := some 0#8 }

/-- The state after a write to a counter port that leaves Counter n as `c`: the device has driven nothing. -/
def afterWrite (s : State) (n : CtrIdx) (c : Counter) : State :=
  State.setCtr { s with dataPins := .z, draws := s.draws + 1 } n c

/-- The state after a read that drove `b` and left Counter n as `c`. -/
def afterRead (s : State) (n : CtrIdx) (c : Counter) (b : Byte) : State :=
  State.setCtr { s with dataPins := .driven b, draws := s.draws + 1 } n c

/-- The state after a read that drove `b` and left the temporary register as `l`. -/
def afterLatchedRead (s : State) (l : Option Latched) (b : Byte) : State :=
  { s with latch := l, dataPins := .driven b, draws := s.draws + 1 }

/-! ## Invariants -/

/-- What holds of the registers of a counter driven from power-on. -/
structure CounterInv (c : Counter) : Prop where
  /-- a counter never set up is the power-on row: output Z, no value held, not running (R28, R212) -/
  unset : c.cfg = false → c.out = .z ∧ c.run = false ∧ c.bc = none ∧ c.crl = none ∧ c.crm = none
  /-- nothing returns the output to Z (R72) -/
  driven : c.cfg = true → c.out ≠ .z
  /-- with RW = 01 or 10 the phases stay LS (R15, R16) -/
  oneByte : c.cfg = true → c.rw ≠ .lsms → c.wph = .ls ∧ c.rph = .ls
  /-- a completely loaded counter register is a legal count for the mode (R22, R82) -/
  legal : ∀ w, loadedCount c = some w → checkCount w c.bcd c.mode = .ok ()
  /-- a running count is a number of at least 1 (R17, R100) -/
  running : c.run = true → ∃ w k, c.bc = some w ∧ val w c.bcd = some (k + 1)
  /-- a count that is not running has not started or is at the terminal count (R17, D13) -/
  stopped : c.run = false → c.bc = none ∨ c.bc = some 0#16
  /-- HALF is 0 to 32767 (R18) -/
  halfBound : c.half ≤ 32767

/-- The number the BCounter stands for is at most `k`. -/
def countAtMost (c : Counter) (k : Nat) : Prop := ∃ w j, c.bc = some w ∧ val w c.bcd = some j ∧ j ≤ k

/-- What the output pin of a counter that has been set up says of the count (R104, R115, R124, R133, R144, R154). -/
structure OutputInv (c : Counter) : Prop where
  /-- mode 0: 0 before the first load -/
  mode0Fresh : c.cfg = true → c.mode = .m0 → c.bc = none → c.out = .lo
  /-- mode 0: 1 from the terminal count on -/
  mode0Done : c.cfg = true → c.mode = .m0 → c.bc ≠ none → c.run = false → c.out = .hi
  /-- mode 1: low exactly while a count-down is in progress -/
  mode1 : c.cfg = true → c.mode = .m1 → (c.out = .lo ↔ c.run = true)
  /-- mode 2: low exactly during the last count-down -/
  mode2 : c.cfg = true → c.mode = .m2 → (c.out = .lo ↔ c.run = true ∧ countIs c 1 = true)
  /-- mode 3: low exactly while the running count is at most HALF, which is then at least 1 -/
  mode3 : c.cfg = true → c.mode = .m3 → (c.out = .lo ↔ c.run = true ∧ countAtMost c c.half)
  /-- mode 3: the half-way mark of a running count -/
  mode3Half : c.cfg = true → c.mode = .m3 → c.run = true → 1 ≤ c.half
  /-- mode 4: the strobe is the last count-down -/
  mode4 : c.cfg = true → c.mode = .m4 → (c.out = .lo ↔ c.run = true ∧ countIs c 1 = true)
  /-- mode 5: the strobe is the last count-down -/
  mode5 : c.cfg = true → c.mode = .m5 → (c.out = .lo ↔ c.run = true ∧ countIs c 1 = true)

/-- A captured value names a counter that has been set up and is not in the middle of a direct read; between its two
reads no load of that counter is half done (R20, R89). -/
def LatchInv (s : State) : Prop :=
  ∀ x, s.latch = some x → (s.ctr x.counter).cfg = true ∧ (s.ctr x.counter).rph = .ls ∧
    (x.left = .one → (s.ctr x.counter).wph = .ls)

/-- The invariant of the whole machine. -/
structure Inv (s : State) : Prop where
  counters : ∀ n, CounterInv (s.ctr n)
  outputs : ∀ n, OutputInv (s.ctr n)
  latch : LatchInv s
  memory : Memory.wf s.mem = true

/-- A run of `k` steps from `s` meets no fault and no refusal. -/
def SafeRun (k : Nat) (s : State) : Prop := ∃ t : State, Sys2Proof.core.run k s = .next t

end Sys2Proof.Machine
end

