-- ==== Sys2Proof/Certificates/Slice0/Obligations.lean ====
section
/-! DEFINITION. The statements about the model, for the provers. A docstring names the rule of spec/ that a statement
formalises, and the decision D<n> of `92_eei_decisions.md` or the log entry on which a clause rests. -/

open Sys2Proof Sys2Proof.Machine

/-! ## Encoding -/

/-- Decoding the encoding of a well-formed instruction gives it back, with every operand at every value (R45, R53,
R54, R57). -/
def Obligations.DecodeOfEncode : Prop :=
  ∀ i : Instr, WellFormed i = true → decode (encode i) = .ok i

/-- Encoding what the decoder reads gives back what was read. Each of the 256 control words is the encoding of one
well-formed instruction; so is each of the 32 pin combinations, with the byte on D7-0 that the four write rows keep and
no other row reads (R45, R53, R58: the rows are disjoint and cover every value of the format); so are the host bytes and
the events of formats `DATA` and `PIN` that the decoder accepts (R54, R57; the packing of the events is the model's,
log 16). It rejects a byte that is none of the five opcodes (R57) and counter number 11 (R30), and what it rejects the
step refuses (log 22). -/
def Obligations.EncodeOfDecode : Prop :=
  (∀ w : Byte, ∃ i, decode (.wire (.cw w)) = .ok i ∧ WellFormed i = true ∧ encode i = .wire (.cw w)) ∧
  (∀ (pins : BitVec 5) (d : Byte), ∃ i, decode (.wire (.bus pins d)) = .ok i ∧ WellFormed i = true ∧
    encode i = .wire (.bus pins (if pins.toNat % 8 = 4 then d else 0#8))) ∧
  (∀ (bytes : List Byte) (i : Instr), decode (.code bytes) = .ok i →
    WellFormed i = true ∧ encode i = .code bytes) ∧
  (∀ op : Byte, op ≠ 0x3E#8 → op ≠ 0xD3#8 → op ≠ 0xDB#8 → op ≠ 0x5F#8 → op ≠ 0x57#8 →
    decode (.code [op]) = .error (.unknownOpcode op)) ∧
  (∀ (d : Byte) (v : Bool), ∀ x ∈ [Wire.dataWr 3#2 d, .dataRd 3#2, .clk 3#2, .gate 3#2 v],
    decode (.wire x) = .error .noSuchCounter) ∧
  (∀ (n : CtrIdx) (d : Byte) (v : Bool),
    ∀ x ∈ [Wire.dataWr (ctrBits n) d, .dataRd (ctrBits n), .clk (ctrBits n), .gate (ctrBits n) v],
      ∃ i, decode (.wire x) = .ok i ∧ WellFormed i = true ∧ encode i = .wire x) ∧
  ∀ (s : State) (x : Encoding) (e : DecodeError), nextEncoding s = .ok x → decode x = .error e →
    step s = .refused (.undecoded e)

/-- The control word by its number: SC = w/64, RW = w/16 mod 4, M = w/2 mod 8, BCD = w mod 2, in the order of the
tests of R53 (D29): SC = 3 is illegal, then RW = 0 is the read-on-the-fly command, then M = 6 and 7 are illegal, and
every other word sets a mode. -/
def Obligations.ControlWordFields : Prop :=
  ∀ w : Byte,
    (w.toNat / 64 = 3 → decodeCw w = .cwIllegalSc w) ∧
    ∀ n : CtrIdx, w.toNat / 64 = (ctrBits n).toNat →
      (w.toNat / 16 % 4 = 0 → decodeCw w = .cwLatch n (BitVec.ofNat 4 (w.toNat % 16))) ∧
      ∀ rw : RW, w.toNat / 16 % 4 = (rwBits rw).toNat →
        (6 ≤ w.toNat / 2 % 8 → decodeCw w = .cwIllegalMode w) ∧
        ∀ m : Mode, w.toNat / 2 % 8 = (modeBits m).toNat →
          decodeCw w = modeInstr m n rw (w.toNat % 2 == 1)

/-- R47: a control word is `SC*64 + RW*16 + M*2 + BCD`, and the six example words of the chapter and the
read-on-the-fly command of Counter2, whatever its low bits, are what their comments say. -/
def Obligations.ControlWordRecipe : Prop :=
  (∀ (n : CtrIdx) (rw : RW) (m : Mode) (bcd : Bool),
    (encodeModeWord n rw m bcd).toNat =
      (ctrBits n).toNat * 64 + (rwBits rw).toNat * 16 + (modeBits m).toNat * 2 + bcd.toNat) ∧
  decode (.wire (.cw 0xB1#8)) = .ok (.cwMode0 .c2 .lsms true) ∧
  decode (.wire (.cw 0xB3#8)) = .ok (.cwMode1 .c2 .lsms true) ∧
  decode (.wire (.cw 0xB5#8)) = .ok (.cwMode2 .c2 .lsms true) ∧
  decode (.wire (.cw 0xB7#8)) = .ok (.cwMode3 .c2 .lsms true) ∧
  decode (.wire (.cw 0xB9#8)) = .ok (.cwMode4 .c2 .lsms true) ∧
  decode (.wire (.cw 0xBB#8)) = .ok (.cwMode5 .c2 .lsms true) ∧
  ∀ x : BitVec 4, decode (.wire (.cw (0x8#4 ++ x))) = .ok (.cwLatch .c2 x)

/-- A few encodings written out from the spec decode to what they stand for (R45, R53, R54, R57; vectors W1, W3, V1,
V13). The clause of the gate event is the model's: R58 gives a counter number and a level no bits, and their packing is
log 16, DESIGN CHOICE. -/
def Obligations.WrittenOutWords : Prop :=
  decode (.wire (.bus 0b10010#5 0#8)) = .ok .busRdC2 ∧
  decode (.wire (.bus 0b01100#5 0x12#8)) = .ok (.busWrC1 0x12#8) ∧
  decode (.wire (.bus 0b11100#5 0xB1#8)) = .ok (.busWrCtl 0xB1#8) ∧
  decode (.wire (.bus 0b11010#5 0#8)) = .ok .busRdCtlNop ∧
  decode (.wire (.cw 0x35#8)) = .ok (.cwMode2 .c0 .lsms true) ∧
  decode (.wire (.cw 0x50#8)) = .ok (.cwMode0 .c1 .ls false) ∧
  decode (.wire (.cw 0xCF#8)) = .ok (.cwIllegalSc 0xCF#8) ∧
  decode (.wire (.cw 0xBC#8)) = .ok (.cwIllegalMode 0xBC#8) ∧
  decode (.wire (.dataWr 2#2 0x34#8)) = .ok (.cntWr .c2 0x34#8) ∧
  decode (.wire (.gate 1#2 true)) = .ok (.gateSet .c1 true) ∧
  decode (.code [0x3E#8, 0xB1#8]) = .ok (.mviA 0xB1#8) ∧
  decode (.code [0xD3#8, 0x83#8]) = .ok (.outA8 0x83#8) ∧
  decode (.code [0x57#8]) = .ok .movDA

/-! ## A step runs the decoded instruction -/

/-- With an event at the head of the queue, the step is `exec` of the decoded event, the event used up (R24; the
queue is the model's, log 2). -/
def Obligations.StepRunsTheEvent : Prop :=
  ∀ (s : State) (x : Wire) (rest : List Input) (i : Instr),
    s.inputs = .event x :: rest → decode (.wire x) = .ok i → step s = exec i { s with inputs := rest }

/-- With the host to move, the step is `exec` of the instruction whose one or two bytes stand at PC (R57, R171); PC
moves in `exec`. The queue is the model's (log 2). -/
def Obligations.StepRunsTheHostInstruction : Prop :=
  ∀ (s : State) (op : Byte) (i : Instr),
    (s.inputs = [] ∨ ∃ rest, s.inputs = .host :: rest) → Memory.read s.mem s.host.pc.toNat = some op →
    ((takesOperand op = false ∧ decode (.code [op]) = .ok i) ∨
      ∃ b, takesOperand op = true ∧ Memory.read s.mem (pcNext s.host.pc).toNat = some b ∧
        decode (.code [op, b]) = .ok i) →
    step s = exec i { s with inputs := s.inputs.tail }

/-- A well-formed instruction placed at the fetch point is the one the next step runs, in the given state with the
bytes of a host instruction written at PC (the model's way of loading a program, log 1). -/
def Obligations.PlacedInstructionRuns : Prop :=
  ∀ (s : State) (i : Instr), WellFormed i = true → s.host.pc ≠ 0xFFFF#16 →
    step (placeEncoding s (encode i)) =
      exec i { s with mem := match encode i with
                             | .wire _ => s.mem
                             | .code bytes => writeCode s.mem s.host.pc bytes }

/-! ## Bus operations -/

/-- R34: in the bus states of "No operation" the device does nothing and tristates D7-0; a read of the control port is
one of them. (`dataPins` is the model's record of D7-0, log 13.) -/
def Obligations.NoOperationStates : Prop :=
  ∀ (s : State) (pins : BitVec 5),
    exec .busRdCtlNop s = .next { s with dataPins := .z } ∧
    exec (.busNopDeselected pins) s = .next { s with dataPins := .z } ∧
    exec (.busNopIdle pins) s = .next { s with dataPins := .z }

/-- `PortWrite` and `PortRead` (R32, R33, R60): a bus write to the control port is the control word it carries, and a
bus operation on a counter port is the transfer of a data byte. -/
def Obligations.BusOperationsArePortOperations : Prop :=
  ∀ (s : State) (d : Byte),
    (∀ i, decode (.wire (.cw d)) = .ok i → exec (.busWrCtl d) s = exec i s) ∧
    ∀ n : CtrIdx, exec (busWriteOf n d) s = exec (.cntWr n d) s ∧ exec (busReadOf n) s = exec (.cntRd n) s

/-! ## Control words -/

/-- R61 to R67: a mode-setting word, written as its own row or through `BUS.WR_CTL`, sets the counter up: it stores
mode, BCD and RW, makes both phases LS, empties the counter register and the BCounter, stops the count, and puts the
output to 0 in mode 0 and to 1 in modes 1 to 5. What it does to an earlier count is the spec's decision D4; when it is
admitted, D5. Nothing else changes. -/
def Obligations.ModeSettingSetsUpTheCounter : Prop :=
  ∀ (s : State) (n : CtrIdx) (rw : RW) (m : Mode) (bcd : Bool) (i : Instr),
    ((s.ctr n).cfg = true → (s.ctr n).wph = .ls ∧ (s.ctr n).rph = .ls ∧ latchIsOf s.latch n = false) →
    (i = modeInstr m n rw bcd ∨ i = .busWrCtl (encodeModeWord n rw m bcd)) →
    exec i s = .next (State.setCtr { s with dataPins := .z } n
      { cfg := true, mode := m, bcd := bcd, rw := rw, crl := none, crm := none, bc := none, wph := .ls, rph := .ls,
        run := false, half := (s.ctr n).half, out := if m = .m0 then .lo else .hi, gate := (s.ctr n).gate })

/-- R61: a mode-setting word for a counter in the middle of a two-byte load or read, or whose read-on-the-fly value
waits, is refused (D5). -/
def Obligations.ModeSettingRefused : Prop :=
  ∀ (s : State) (n : CtrIdx) (rw : RW) (m : Mode) (bcd : Bool), (s.ctr n).cfg = true →
    ((s.ctr n).wph = .ms ∨ (s.ctr n).rph = .ms → exec (modeInstr m n rw bcd) s = .refused .midSequence) ∧
    ((s.ctr n).wph = .ls → (s.ctr n).rph = .ls → latchIsOf s.latch n = true →
      exec (modeInstr m n rw bcd) s = .refused .latchPending)

/-- R68: the read-on-the-fly command captures the running count in the temporary register with two bytes to be read,
and changes nothing else of the device; its low four bits do not matter. When it is admitted is the spec's D5, D6
and D15. -/
def Obligations.ReadOnTheFlyCaptures : Prop :=
  ∀ (s : State) (n : CtrIdx) (x : BitVec 4),
    (s.ctr n).cfg = true → s.latch = none → (s.ctr n).wph = .ls → (s.ctr n).rph = .ls →
    exec (.cwLatch n x) s =
      .next { s with dataPins := .z, latch := some { counter := n, value := (s.ctr n).bc, left := .two } }

/-- R68: the command is refused before the counter is set up (D15), while any captured value waits (D6), and in the
middle of a two-byte load or direct read of the counter (D5, C10), in this order of the tests. -/
def Obligations.ReadOnTheFlyRefused : Prop :=
  ∀ (s : State) (n : CtrIdx) (x : BitVec 4),
    ((s.ctr n).cfg = false → exec (.cwLatch n x) s = .refused .unconfigured) ∧
    ((s.ctr n).cfg = true → s.latch ≠ none → exec (.cwLatch n x) s = .refused .latchPending) ∧
    ((s.ctr n).cfg = true → s.latch = none → ((s.ctr n).wph = .ms ∨ (s.ctr n).rph = .ms) →
      exec (.cwLatch n x) s = .refused .midSequence)

/-- The operations that the spec gives no meaning: the illegal control words, as their own rows and through
`BUS.WR_CTL` (R69, R70, D29), and RD* = WR* = CS* = 0, which is no row of Table 25.1 and no event of the spec (R34, D17;
the refusal's name is the model's, log 18). -/
def Obligations.StopsOnEveryPath : Prop :=
  ∀ (s : State) (w : Byte) (pins : BitVec 5),
    exec (.cwIllegalSc w) s = .refused .illegalSC ∧ exec (.cwIllegalMode w) s = .refused .illegalMode ∧
    (192 ≤ w.toNat → exec (.busWrCtl w) s = .refused .illegalSC) ∧
    (w.toNat < 192 → w.toNat / 16 % 4 ≠ 0 → 6 ≤ w.toNat / 2 % 8 →
      exec (.busWrCtl w) s = .refused .illegalMode) ∧
    exec (.busRdwrBothLow pins) s = .refused .bothLow

/-! ## Loading a counter -/

/-- R78: with RW = 11 the first byte written is the LS byte; only `CRL` and the write phase change. -/
def Obligations.FirstByteOfALoad : Prop :=
  ∀ (s : State) (n : CtrIdx) (d : Byte) (i : Instr), WritesPort i n d → WriteAdmitted s n →
    (s.ctr n).rw = .lsms → (s.ctr n).wph = .ls →
    exec i s = .next (afterWrite s n { s.ctr n with crl := some d, wph := .ms })

/-- R101: a load completed in mode 0 before the first count or during a count copies the counter register into the
BCounter and starts the count from it, the output staying as it is. The load is the byte that `completedBy` stores
(a one-byte load by D25). -/
def Obligations.Mode0LoadStartsTheCount : Prop :=
  ∀ (s : State) (n : CtrIdx) (d : Byte) (i : Instr) (e : Counter) (w : Word) (k : Nat), WritesPort i n d →
    WriteAdmitted s n → completedBy s.board d (s.ctr n) = some e → loadedCount e = some w →
    val w e.bcd = some (k + 1) → e.mode = .m0 → (e.bc = none ∨ e.run = true) →
    exec i s = .next (afterWrite s n { e with bc := some w, run := true })

/-- R101: a load completed in mode 0 after the terminal count, with no control word in between: refused, or a new
count with the output at 0, at 1, or at a free level, by the parameter `MODE0_RELOAD_AFTER_TC_OUT` (D24; the free
level is the model's, log 10). -/
def Obligations.Mode0ReloadAfterTerminalCount : Prop :=
  ∀ (s : State) (n : CtrIdx) (d : Byte) (i : Instr) (e : Counter) (w : Word) (k : Nat), WritesPort i n d →
    WriteAdmitted s n → completedBy s.board d (s.ctr n) = some e → loadedCount e = some w →
    val w e.bcd = some (k + 1) → e.mode = .m0 → e.bc ≠ none → e.run = false →
    exec i s =
      match s.board.mode0Reload with
      | .refuse => .refused .mode0Reload
      | .low => .next (afterWrite s n { e with bc := some w, run := true, out := .lo })
      | .high => .next (afterWrite s n { e with bc := some w, run := true, out := .hi })
      | .free => .next (afterWrite s n
          { e with bc := some w, run := true, out := if Config.mode0ReloadLevel s.draws then .hi else .lo })

/-- R111, R151: a load completed in mode 1 or 5 changes the counter register only, whether or not a count is in
progress. -/
def Obligations.LoadInModes1And5 : Prop :=
  ∀ (s : State) (n : CtrIdx) (d : Byte) (i : Instr) (e : Counter) (w : Word) (k : Nat), WritesPort i n d →
    WriteAdmitted s n → completedBy s.board d (s.ctr n) = some e → loadedCount e = some w →
    val w e.bcd = some (k + 1) → (e.mode = .m1 ∨ (e.mode = .m5 ∧ 1 ≤ k)) →
    exec i s = .next (afterWrite s n e)

/-- R121, R131: a load completed in mode 2 or 3 with the gate at 1 and no count in progress starts the count with the
output at 1, in mode 3 with the half-way mark at half the count; otherwise it changes the counter register only. -/
def Obligations.LoadInModes2And3 : Prop :=
  ∀ (s : State) (n : CtrIdx) (d : Byte) (i : Instr) (e : Counter) (w : Word) (k : Nat), WritesPort i n d →
    WriteAdmitted s n → completedBy s.board d (s.ctr n) = some e → loadedCount e = some w →
    val w e.bcd = some (k + 2) → (e.mode = .m2 ∨ e.mode = .m3) →
    (e.gate = true → e.run = false → exec i s = .next (afterWrite s n
      { e with bc := some w, run := true, out := .hi,
               half := if e.mode = .m3 then (k + 2) / 2 else e.half })) ∧
    ((e.gate = false ∨ e.run = true) → exec i s = .next (afterWrite s n e))

/-- R141: a load completed in mode 4 starts the count, whatever the gate and whether or not a count is in progress,
with the output at 1 (D23). -/
def Obligations.Mode4LoadStartsTheCount : Prop :=
  ∀ (s : State) (n : CtrIdx) (d : Byte) (i : Instr) (e : Counter) (w : Word) (k : Nat), WritesPort i n d →
    WriteAdmitted s n → completedBy s.board d (s.ctr n) = some e → loadedCount e = some w →
    val w e.bcd = some (k + 2) → e.mode = .m4 →
    exec i s = .next (afterWrite s n { e with bc := some w, run := true, out := .hi })

/-- R82: a completed load is refused with a decimal digit above 9 (D11), with the count 0 (D9), and with the count 1
in modes 2 to 5 (D10). -/
def Obligations.IllegalCountsRefused : Prop :=
  ∀ (s : State) (n : CtrIdx) (d : Byte) (i : Instr) (e : Counter) (w : Word), WritesPort i n d →
    WriteAdmitted s n → completedBy s.board d (s.ctr n) = some e → loadedCount e = some w →
    (val w e.bcd = none → exec i s = .refused .badBCD) ∧
    (val w e.bcd = some 0 → exec i s = .refused .zeroCount) ∧
    (val w e.bcd = some 1 → e.mode ≠ .m0 → e.mode ≠ .m1 → exec i s = .refused .countOne)

/-- R77: in the one-byte formats a write is refused under `SINGLE_BYTE_OTHER` = refuse; under zero it does what the
last byte of a two-byte load with the other byte 00H does, and is refused where that is, with its reason (D25). -/
def Obligations.OneByteLoads : Prop :=
  ∀ (s : State) (n : CtrIdx) (d : Byte) (i : Instr), WritesPort i n d → WriteAdmitted s n →
    ((s.ctr n).rw ≠ .lsms → s.board.singleByteOther = .refuse → exec i s = .refused .singleByte) ∧
    (s.board.singleByteOther = .zero → (s.ctr n).wph = .ls →
      ((s.ctr n).rw = .ls → ∀ t,
        exec (.cntWr n 0#8) (s.setCtr n { s.ctr n with rw := .lsms, wph := .ms, crl := some d }) = .next t →
          exec i s = .next (t.setCtr n { t.ctr n with rw := .ls })) ∧
      ((s.ctr n).rw = .ls → ∀ r,
        exec (.cntWr n 0#8) (s.setCtr n { s.ctr n with rw := .lsms, wph := .ms, crl := some d }) = .refused r →
          exec i s = .refused r) ∧
      ((s.ctr n).rw = .ms → ∀ t,
        exec (.cntWr n d) (s.setCtr n { s.ctr n with rw := .lsms, wph := .ms, crl := some 0#8 }) = .next t →
          exec i s = .next (t.setCtr n { t.ctr n with rw := .ms })) ∧
      ((s.ctr n).rw = .ms → ∀ r,
        exec (.cntWr n d) (s.setCtr n { s.ctr n with rw := .lsms, wph := .ms, crl := some 0#8 }) = .refused r →
          exec i s = .refused r))

/-- R76: a write is refused before the counter is set up (D15), and between the two bytes of a direct read or of a
read-on-the-fly value of the counter (D8). -/
def Obligations.WriteRefused : Prop :=
  ∀ (s : State) (n : CtrIdx) (d : Byte) (i : Instr), WritesPort i n d →
    ((s.ctr n).cfg = false → exec i s = .refused .unconfigured) ∧
    ((s.ctr n).cfg = true → ((s.ctr n).rph = .ms ∨ latchHalfRead s.latch n = true) →
      exec i s = .refused .interleave)

/-! ## Reading a counter -/

/-- R90: a direct read drives the byte of the running count that RW and the read phase select, and turns the phase
with RW = 11. Reading the BCounter is the spec's D28. -/
def Obligations.DirectReadDrivesTheCount : Prop :=
  ∀ (s : State) (n : CtrIdx) (w : Word) (i : Instr), ReadsPort i n → ReadAdmitted s n →
    latchIsOf s.latch n = false → (s.ctr n).bc = some w →
    exec i s = .next
      (match (s.ctr n).rw, (s.ctr n).rph with
        | .ls, _ => afterRead s n (s.ctr n) (w.setWidth 8)
        | .ms, _ => afterRead s n (s.ctr n) ((w >>> 8).setWidth 8)
        | .lsms, .ls => afterRead s n { s.ctr n with rph := .ms } (w.setWidth 8)
        | .lsms, .ms => afterRead s n { s.ctr n with rph := .ls } ((w >>> 8).setWidth 8))

/-- R90, D15: where the BCounter holds no value, a direct read drives a free byte, and the phase turns as before. -/
def Obligations.UnloadedReadDrivesAFreeByte : Prop :=
  ∀ (s : State) (n : CtrIdx) (i : Instr), ReadsPort i n → ReadAdmitted s n →
    latchIsOf s.latch n = false → (s.ctr n).bc = none →
    exec i s = .next
      (match (s.ctr n).rw, (s.ctr n).rph with
        | .ls, _ => afterRead s n (s.ctr n) (Config.any8 s.draws)
        | .ms, _ => afterRead s n (s.ctr n) (Config.any8 s.draws)
        | .lsms, .ls => afterRead s n { s.ctr n with rph := .ms } (Config.any8 s.draws)
        | .lsms, .ms => afterRead s n { s.ctr n with rph := .ls } (Config.any8 s.draws))

/-- R89: with a captured value of the counter waiting, the first read drives its LS byte and the second its MS byte,
whatever RW is, and the temporary register is then empty (D7); a captured `none` gives free bytes (D15). -/
def Obligations.LatchedReadDrivesTheCapturedBytes : Prop :=
  ∀ (s : State) (n : CtrIdx) (v : Option Word) (i : Instr), ReadsPort i n → ReadAdmitted s n →
    (s.latch = some { counter := n, value := v, left := .two } →
      exec i s = .next (afterLatchedRead s (some { counter := n, value := v, left := .one })
        (match v with | some w => w.setWidth 8 | none => Config.any8 s.draws))) ∧
    (s.latch = some { counter := n, value := v, left := .one } →
      exec i s = .next (afterLatchedRead s none
        (match v with | some w => (w >>> 8).setWidth 8 | none => Config.any8 s.draws)))

/-- R86: a read is refused before the counter is set up (D15), and between the two bytes of a load of the counter
(D8). -/
def Obligations.ReadRefused : Prop :=
  ∀ (s : State) (n : CtrIdx) (i : Instr), ReadsPort i n →
    ((s.ctr n).cfg = false → exec i s = .refused .unconfigured) ∧
    ((s.ctr n).cfg = true → (s.ctr n).wph = .ms → exec i s = .refused .interleave)

/-- R88: the whole read-on-the-fly procedure. After the command, and whatever pulses, gate changes, host instructions
and bus operations on other counters fall between the three steps, the two reads of the port drive the LS byte and
then the MS byte of the count at the moment of the command, and the temporary register is empty again (admitted by
D5, D6, D15; two bytes whatever RW is, D7). -/
def Obligations.ReadOnTheFlyReturnsTheCapturedCount : Prop :=
  ∀ (s s1 s2 s4 : State) (n : CtrIdx) (x : BitVec 4) (w : Word) (es1 es2 : List Instr),
    (s.ctr n).bc = some w → exec (.cwLatch n x) s = .next s1 →
    quietFor n es1 s1 → execAll es1 s1 = .next s2 →
    ∃ s3, exec (.cntRd n) s2 = .next s3 ∧ s3.dataPins = .driven (w.setWidth 8) ∧
      (quietFor n es2 s3 → execAll es2 s3 = .next s4 →
        ∃ s5, exec (.cntRd n) s4 = .next s5 ∧ s5.dataPins = .driven ((w >>> 8).setWidth 8) ∧ s5.latch = none)

/-- R87: the hazard of a direct two-byte read, from every state in which a counter with RW = 11 counts down from 3400H
in mode 0, in binary, with the gate at 1, no read or load of it half done and no captured value waiting. A pulse between
the two direct reads gives the bytes 00H and 33H, of 3300H, a value the count never had; with no pulse between them they
are 00H and 34H. -/
def Obligations.DirectReadHazard : Prop :=
  ∀ (s : State) (n : CtrIdx), (s.ctr n).cfg = true → (s.ctr n).rw = .lsms → (s.ctr n).wph = .ls →
    (s.ctr n).rph = .ls → s.latch = none → (s.ctr n).mode = .m0 → (s.ctr n).bcd = false →
    (s.ctr n).gate = true → (s.ctr n).run = true → (s.ctr n).bc = some 0x3400#16 →
    ∃ s1, exec (.cntRd n) s = .next s1 ∧ s1.dataPins = .driven 0x00#8 ∧
      (∃ s2, exec (.cntRd n) s1 = .next s2 ∧ s2.dataPins = .driven 0x34#8) ∧
      ∃ s2 s3, exec (.clkPulse n) s1 = .next s2 ∧ (s2.ctr n).bc = some 0x33FF#16 ∧
        exec (.cntRd n) s2 = .next s3 ∧ s3.dataPins = .driven 0x33#8

/-! ## Counting down -/

/-- R8, R100: `enc` is the inverse of `val` both ways, and `dec1` takes a word that stands for k + 1 to a word that
stands for k, in binary and in decimal, and is defined for no other word (the number a word stands for is the spec's
D22). -/
def Obligations.DecrementIsByOne : Prop :=
  ∀ b : Bool,
    (∀ (w : Word) (k : Nat), val w b = some k → enc k b = w) ∧
    (∀ k : Nat, k ≤ (if b then 9999 else 65535) → val (enc k b) b = some k) ∧
    (∀ (w : Word) (k : Nat), val w b = some (k + 1) → ∃ w', dec1 w b = some w' ∧ val w' b = some k) ∧
    ∀ w w' : Word, dec1 w b = some w' → ∃ k, val w b = some (k + 1)

/-- R212, R102, R114, R124, R133, R144, R154: a pulse changes nothing before the counter is set up, with no count in
progress (D13), and in modes 0 and 4 with the gate at 0. -/
def Obligations.PulseWithoutEffect : Prop :=
  ∀ (s : State) (n : CtrIdx),
    ((s.ctr n).cfg = false ∨ (s.ctr n).run = false ∨
      ((s.ctr n).gate = false ∧ ((s.ctr n).mode = .m0 ∨ (s.ctr n).mode = .m4))) →
    exec (.clkPulse n) s = .next s

/-- R102, R114: a pulse counted in mode 0 (gate at 1) or mode 1 (gate ignored) takes the count k + 1 to k; at the
terminal count the output goes to 1 and the count stops at 0000H (D13). -/
def Obligations.PulseInModes0And1 : Prop :=
  ∀ (s : State) (n : CtrIdx) (w : Word) (k : Nat), (s.ctr n).cfg = true → (s.ctr n).run = true →
    (s.ctr n).bc = some w → val w (s.ctr n).bcd = some (k + 1) →
    (((s.ctr n).mode = .m0 ∧ (s.ctr n).gate = true) ∨ (s.ctr n).mode = .m1) →
    exec (.clkPulse n) s = .next (s.setCtr n
      { s.ctr n with bc := some (enc k (s.ctr n).bcd), run := decide (k ≠ 0),
                     out := if k = 0 then .hi else (s.ctr n).out })

/-- R124: a pulse counted in mode 2. At the count 1 the output goes to 0. At the terminal count the output goes to 1
and the BCounter is loaded again with the gate at 1 (refused where the counter is not completely loaded, D12), or
stops at 0000H with the gate at 0 (D13). The gate does not stop the count. -/
def Obligations.PulseInMode2 : Prop :=
  ∀ (s : State) (n : CtrIdx) (w : Word) (k : Nat), (s.ctr n).cfg = true → (s.ctr n).run = true →
    (s.ctr n).bc = some w → val w (s.ctr n).bcd = some (k + 1) → (s.ctr n).mode = .m2 →
    (k ≠ 0 → exec (.clkPulse n) s = .next (s.setCtr n
      { s.ctr n with bc := some (enc k (s.ctr n).bcd), out := if k = 1 then .lo else (s.ctr n).out })) ∧
    (k = 0 → (s.ctr n).gate = false → exec (.clkPulse n) s = .next (s.setCtr n
      { s.ctr n with bc := some 0#16, out := .hi, run := false })) ∧
    (k = 0 → (s.ctr n).gate = true → ∀ r, loadedCount (s.ctr n) = some r →
      exec (.clkPulse n) s = .next (s.setCtr n { s.ctr n with bc := some r, out := .hi })) ∧
    (k = 0 → (s.ctr n).gate = true → loadedCount (s.ctr n) = none →
      exec (.clkPulse n) s = .refused .notLoaded)

/-- R133: a pulse counted in mode 3. At the half-way mark (at least 1) the output goes to 0 (D14). At the terminal
count the output goes to 1 and the BCounter is loaded again with a new half-way mark with the gate at 1 (refused where
the counter is not completely loaded, D12), or stops at 0000H with the gate at 0 (D13). -/
def Obligations.PulseInMode3 : Prop :=
  ∀ (s : State) (n : CtrIdx) (w : Word) (k : Nat), (s.ctr n).cfg = true → (s.ctr n).run = true →
    (s.ctr n).bc = some w → val w (s.ctr n).bcd = some (k + 1) → (s.ctr n).mode = .m3 → 1 ≤ (s.ctr n).half →
    (k ≠ 0 → exec (.clkPulse n) s = .next (s.setCtr n
      { s.ctr n with bc := some (enc k (s.ctr n).bcd),
                     out := if k = (s.ctr n).half then .lo else (s.ctr n).out })) ∧
    (k = 0 → (s.ctr n).gate = false → exec (.clkPulse n) s = .next (s.setCtr n
      { s.ctr n with bc := some 0#16, out := .hi, run := false })) ∧
    (k = 0 → (s.ctr n).gate = true → ∀ r j, loadedCount (s.ctr n) = some r → val r (s.ctr n).bcd = some j →
      exec (.clkPulse n) s = .next (s.setCtr n { s.ctr n with bc := some r, out := .hi, half := j / 2 })) ∧
    (k = 0 → (s.ctr n).gate = true → loadedCount (s.ctr n) = none →
      exec (.clkPulse n) s = .refused .notLoaded)

/-- R144, R154: a pulse counted in mode 4 (gate at 1) or mode 5 (gate ignored). At the count 1 the output goes to 0; at
the terminal count it goes back to 1 and the count stops at 0000H, not loaded again (D13). -/
def Obligations.PulseInModes4And5 : Prop :=
  ∀ (s : State) (n : CtrIdx) (w : Word) (k : Nat), (s.ctr n).cfg = true → (s.ctr n).run = true →
    (s.ctr n).bc = some w → val w (s.ctr n).bcd = some (k + 1) →
    (((s.ctr n).mode = .m4 ∧ (s.ctr n).gate = true) ∨ (s.ctr n).mode = .m5) →
    exec (.clkPulse n) s = .next (s.setCtr n
      { s.ctr n with bc := some (enc k (s.ctr n).bcd), run := decide (k ≠ 0),
                     out := if k = 0 then .hi else if k = 1 then .lo else (s.ctr n).out })

/-! ## The waveforms -/

/-- R102, R104, R114, R115: from a running count N with the output at 0, in mode 0 with the gate at 1 or in mode 1, the
output stays 0 for the first N - 1 pulses, the count falling by one at each, and is 1 from the N-th pulse on, the
BCounter staying at 0000H (D13). -/
def Obligations.TerminalCountAtPulseN : Prop :=
  ∀ (s : State) (n : CtrIdx) (w : Word) (N : Nat), (s.ctr n).cfg = true → (s.ctr n).run = true →
    (s.ctr n).bc = some w → val w (s.ctr n).bcd = some N → 0 < N → (s.ctr n).out = .lo →
    (((s.ctr n).mode = .m0 ∧ (s.ctr n).gate = true) ∨ (s.ctr n).mode = .m1) →
    (∀ k, k < N → pulses n k s = .next (s.setCtr n
      { s.ctr n with bc := some (enc (N - k) (s.ctr n).bcd) })) ∧
    (∀ k, N ≤ k → pulses n k s = .next (s.setCtr n
      { s.ctr n with bc := some 0#16, out := .hi, run := false }))

/-- R124, R125: the rate generator divides by N. From the start of a period with the count N completely loaded and the
gate at 1, the output is 1 for the first N - 2 pulses and 0 after pulse N - 1, and after pulse N the whole machine is
back where it started. -/
def Obligations.RateGeneratorPeriod : Prop :=
  ∀ (s : State) (n : CtrIdx) (w : Word) (N : Nat), (s.ctr n).cfg = true → (s.ctr n).mode = .m2 →
    (s.ctr n).run = true → (s.ctr n).gate = true → (s.ctr n).out = .hi → (s.ctr n).bc = some w →
    loadedCount (s.ctr n) = some w → val w (s.ctr n).bcd = some N → 2 ≤ N →
    (∀ k, k < N → pulses n k s = .next (s.setCtr n
      { s.ctr n with bc := some (enc (N - k) (s.ctr n).bcd), out := if k = N - 1 then .lo else .hi })) ∧
    pulses n N s = .next s

/-- R130, R133: the square wave generator divides by N. From the start of a period, the output is 1 until pulse
ceil(N/2) and 0 from that pulse until pulse N, when the whole machine is back where it started; so an odd N gives one
period more at 1 than at 0 (one decrement per pulse is the spec's D14). -/
def Obligations.SquareWavePeriod : Prop :=
  ∀ (s : State) (n : CtrIdx) (w : Word) (N : Nat), (s.ctr n).cfg = true → (s.ctr n).mode = .m3 →
    (s.ctr n).run = true → (s.ctr n).gate = true → (s.ctr n).out = .hi → (s.ctr n).bc = some w →
    loadedCount (s.ctr n) = some w → val w (s.ctr n).bcd = some N → 2 ≤ N → (s.ctr n).half = N / 2 →
    (∀ k, k < N → pulses n k s = .next (s.setCtr n
      { s.ctr n with bc := some (enc (N - k) (s.ctr n).bcd),
                     out := if (N + 1) / 2 ≤ k then .lo else .hi })) ∧
    pulses n N s = .next s

/-- R140, R144, R150, R154: the strobe. From a running count N with the output at 1, in mode 4 with the gate at 1 or in
mode 5, the output is 1 for the first N - 2 pulses, 0 after pulse N - 1, and 1 from pulse N on, the BCounter staying
at 0000H (D13). -/
def Obligations.StrobeIsOnePulse : Prop :=
  ∀ (s : State) (n : CtrIdx) (w : Word) (N : Nat), (s.ctr n).cfg = true → (s.ctr n).run = true →
    (s.ctr n).bc = some w → val w (s.ctr n).bcd = some N → 2 ≤ N → (s.ctr n).out = .hi →
    (((s.ctr n).mode = .m4 ∧ (s.ctr n).gate = true) ∨ (s.ctr n).mode = .m5) →
    (∀ k, k < N → pulses n k s = .next (s.setCtr n
      { s.ctr n with bc := some (enc (N - k) (s.ctr n).bcd), out := if k = N - 1 then .lo else .hi })) ∧
    (∀ k, N ≤ k → pulses n k s = .next (s.setCtr n { s.ctr n with bc := some 0#16, run := false }))

/-! ## The gates -/

/-- R24: `GateSet(n, v)` with `v` the present level changes nothing. -/
def Obligations.GateAtItsLevel : Prop :=
  ∀ (s : State) (n : CtrIdx), exec (.gateSet n (s.ctr n).gate) s = .next s

/-- R103, R143: in modes 0 and 4 the gate acts only through its level at each clock pulse: neither transition loads the
BCounter, changes the output or changes RUN, and with the gate at 0 a pulse changes nothing, so that the count goes on
from the point of suspension. -/
def Obligations.GateLevelInModes0And4 : Prop :=
  ∀ (s : State) (n : CtrIdx), (s.ctr n).cfg = true → ((s.ctr n).mode = .m0 ∨ (s.ctr n).mode = .m4) →
    (∀ v, exec (.gateSet n v) s = .next (s.setCtr n { s.ctr n with gate := v })) ∧
    ((s.ctr n).gate = false → ∀ k, pulses n k s = .next s)

/-- R113, R153: the 1 to 0 transition of the gate changes `GATE[n]` alone; so it does in every mode (R103, R123, R132,
R143) and before the counter is set up (R212). -/
def Obligations.GateFall : Prop :=
  ∀ (s : State) (n : CtrIdx), exec (.gateSet n false) s = .next (s.setCtr n { s.ctr n with gate := false })

/-- R112, R122, R132, R152: the 0 to 1 transition of the gate in modes 1, 2, 3 and 5 copies the counter register into
the BCounter and starts the count, in mode 3 with the half-way mark; the output goes to 0 in mode 1 and to 1 in modes
2, 3 and 5 (D23), whether or not a count is in progress. -/
def Obligations.TriggerStartsTheCount : Prop :=
  ∀ (s : State) (n : CtrIdx) (w : Word) (k : Nat), (s.ctr n).cfg = true → (s.ctr n).gate = false →
    (s.ctr n).mode ≠ .m0 → (s.ctr n).mode ≠ .m4 → loadedCount (s.ctr n) = some w →
    val w (s.ctr n).bcd = some k →
    exec (.gateSet n true) s = .next (s.setCtr n
      { s.ctr n with gate := true, bc := some w, run := true,
                     out := if (s.ctr n).mode = .m1 then .lo else .hi,
                     half := if (s.ctr n).mode = .m3 then k / 2 else (s.ctr n).half })

/-- R22, R112, R122, R132, R152: a trigger of a counter that is not completely loaded is refused (D12); before the
counter is set up a rise changes `GATE[n]` alone (R212). -/
def Obligations.TriggerNotLoaded : Prop :=
  ∀ (s : State) (n : CtrIdx), (s.ctr n).gate = false →
    ((s.ctr n).cfg = true → (s.ctr n).mode ≠ .m0 → (s.ctr n).mode ≠ .m4 → loadedCount (s.ctr n) = none →
      exec (.gateSet n true) s = .refused .notLoaded) ∧
    ((s.ctr n).cfg = false → exec (.gateSet n true) s = .next (s.setCtr n { s.ctr n with gate := true }))

/-! ## The host -/

/-- R172: `MVI A, d8`, the bytes 3EH and d8, loads the accumulator and advances PC past its two bytes; no event reaches
the device and nothing else changes. (R11 leaves PC open past FFFFH: `PcStepping`.) -/
def Obligations.MviLoadsTheAccumulator : Prop :=
  ∀ d8 : Byte, decode (.code [0x3E#8, d8]) = .ok (.mviA d8) ∧
    ∀ s : State, s.host.pc.toNat < 65534 →
      exec (.mviA d8) s = .next { s with host := { s.host with a := d8, pc := s.host.pc + 2#16 } }

/-- R175: `MOV E, A` (5FH) and `MOV D, A` (57H) copy the accumulator, which is unchanged, and advance PC past their one
byte; no event reaches the device and nothing else changes. (R11 leaves PC open past FFFFH: `PcStepping`.) -/
def Obligations.MovCopiesTheAccumulator : Prop :=
  decode (.code [0x5F#8]) = .ok .movEA ∧ decode (.code [0x57#8]) = .ok .movDA ∧
  ∀ s : State, s.host.pc.toNat < 65535 →
    exec .movEA s = .next { s with host := { s.host with e := s.host.a, pc := s.host.pc + 1#16 } } ∧
    exec .movDA s = .next { s with host := { s.host with d := s.host.a, pc := s.host.pc + 1#16 } }

/-- R171: the PC is incremented by one for each byte; past FFFFH, which R11 leaves open, its value is free (the
model's, log 4), and there the three instructions that reach no port do as elsewhere but for that PC. -/
def Obligations.PcStepping : Prop :=
  (∀ pc : Word, pc.toNat < 65535 → (pcNext pc).toNat = pc.toNat + 1) ∧ pcNext 0xFFFF#16 = Config.pcPastTop ∧
  ∀ (s : State) (d8 : Byte),
    exec (.mviA d8) s = .next { s with host := { s.host with a := d8, pc := pcNext (pcNext s.host.pc) } } ∧
    exec .movEA s = .next { s with host := { s.host with e := s.host.a, pc := pcNext s.host.pc } } ∧
    exec .movDA s = .next { s with host := { s.host with d := s.host.a, pc := pcNext s.host.pc } }

/-- R173, R176: `OUT a8` to a port of the device is the bus write of the accumulator to port a8[1:0], with PC advanced;
to any other port the device is deselected and only PC moves. A write that is refused stops the instruction; the
mode-setting word of a counter never set up, and the first byte of a two-byte load, are not. -/
def Obligations.OutIsABusWrite : Prop :=
  ∀ (s : State) (a8 : Byte),
    (a8.toNat / 4 ≠ s.board.portBase.toNat →
      exec (.outA8 a8) s =
        .next { s with dataPins := .z, host := { s.host with pc := pcNext (pcNext s.host.pc) } }) ∧
    (a8.toNat / 4 = s.board.portBase.toNat → ∀ i,
      (a8.toNat % 4 = 3 ∧ i = .busWrCtl s.host.a) ∨
        (∃ n, a8.toNat % 4 = (ctrBits n).toNat ∧ i = busWriteOf n s.host.a) →
      (∀ t, exec i s = .next t →
        exec (.outA8 a8) s = .next { t with host := { s.host with pc := pcNext (pcNext s.host.pc) } }) ∧
      ∀ r, exec i s = .refused r → exec (.outA8 a8) s = .refused r) ∧
    (a8.toNat / 4 = s.board.portBase.toNat → a8.toNat % 4 = 3 → ∀ n rw m bcd,
      s.host.a = encodeModeWord n rw m bcd → (s.ctr n).cfg = false →
      ∃ t, exec (modeInstr m n rw bcd) s = .next t ∧
        exec (.outA8 a8) s = .next { t with host := { s.host with pc := pcNext (pcNext s.host.pc) } }) ∧
    (a8.toNat / 4 = s.board.portBase.toNat → ∀ n, a8.toNat % 4 = (ctrBits n).toNat → WriteAdmitted s n →
      (s.ctr n).rw = .lsms → (s.ctr n).wph = .ls →
      ∃ t, exec (.cntWr n s.host.a) s = .next t ∧
        exec (.outA8 a8) s = .next { t with host := { s.host with pc := pcNext (pcNext s.host.pc) } })

/-- R174, R176: `IN a8` from a counter port of the device is the bus read of port a8[1:0], with the byte it drives in
the accumulator and PC advanced, wherever the read is admitted; from the control port (R93, D16), and from a port of no device (U30, log 24), the
accumulator receives a free byte. A read that is refused stops the instruction. -/
def Obligations.InIsABusRead : Prop :=
  ∀ (s : State) (a8 : Byte),
    (a8.toNat / 4 ≠ s.board.portBase.toNat ∨ a8.toNat % 4 = 3 →
      exec (.inA8 a8) s = .next { s with dataPins := .z, draws := s.draws + 1, host :=
        { s.host with a := Config.any8 s.draws, pc := pcNext (pcNext s.host.pc) } }) ∧
    (a8.toNat / 4 = s.board.portBase.toNat → ∀ n, a8.toNat % 4 = (ctrBits n).toNat →
      (ReadAdmitted s n → ∃ t b, exec (busReadOf n) s = .next t ∧ t.dataPins = .driven b ∧
        exec (.inA8 a8) s =
          .next { t with host := { s.host with a := b, pc := pcNext (pcNext s.host.pc) } }) ∧
      ∀ r, exec (busReadOf n) s = .refused r → exec (.inA8 a8) s = .refused r)

/-! ## What an event leaves alone -/

/-- R29: an event for one counter leaves every component of the other two unchanged (D30), for every instruction: the
counter it is for is that of its bus operation or of its pin. -/
def Obligations.OtherCountersUnchanged : Prop :=
  ∀ (s t : State) (i : Instr) (m : CtrIdx), exec i s = .next t → busTarget s i ≠ some m → pinTarget i ≠ some m →
    t.ctr m = s.ctr m

/-- The frame of every instruction outside the counters: no instruction writes program memory (R43: every byte reads as
before) or the parameters (R7); the host registers change by host instructions alone (R170), D and E by MOV alone, and
the accumulator by MVI and IN alone. -/
def Obligations.HostAndMemoryFrame : Prop :=
  ∀ (s t : State) (i : Instr), exec i s = .next t →
    (∀ a, Memory.read t.mem a = Memory.read s.mem a) ∧ t.board = s.board ∧ t.inputs = s.inputs ∧
    (t.host.d ≠ s.host.d → i = .movDA) ∧ (t.host.e ≠ s.host.e → i = .movEA) ∧
    (t.host.a ≠ s.host.a → ∃ x, i = .mviA x ∨ i = .inA8 x) ∧
    (t.host.pc ≠ s.host.pc → ∃ bytes, encode i = .code bytes)

/-- R20, R29: only a bus operation for a counter can fill the temporary register or change what it holds of that
counter: an event that is no bus operation for the counter it was taken from leaves it, and what fills it is taken
from the counter the operation is for. -/
def Obligations.TemporaryRegisterFrame : Prop :=
  ∀ (s t : State) (i : Instr), exec i s = .next t →
    (∀ x, s.latch = some x → busTarget s i ≠ some x.counter → t.latch = s.latch) ∧
    (∀ x, s.latch = none → t.latch = some x →
      busTarget s i = some x.counter ∧ x.value = (s.ctr x.counter).bc ∧ x.left = .two)

/-- R12, R72: once a counter has been set up it stays set up and nothing returns its output to tristate; and a counter
leaves tristate only by being set up (R19). -/
def Obligations.SetUpIsForever : Prop :=
  ∀ (s t : State) (n : CtrIdx), CounterInv (s.ctr n) → step s = .next t →
    ((s.ctr n).cfg = true → (t.ctr n).cfg = true ∧ (t.ctr n).out ≠ .z) ∧
    ((t.ctr n).out ≠ .z → (t.ctr n).cfg = true)

/-! ## Invariants -/

/-- R28, R211: at power-on every output is tristated, no counter is set up or running, no register of a counter and not
the temporary register holds a value (D19), and the gates are at `GATE_INIT` (D21); and the invariant holds, for
every value of the parameters. -/
def Obligations.PowerOn : Prop :=
  ∀ (b : Board) (g0 g1 g2 : Bool),
    Inv (State.powerOn b g0 g1 g2) ∧ (State.powerOn b g0 g1 g2).latch = none ∧
    (∀ n, ((State.powerOn b g0 g1 g2).ctr n).out = .z ∧ ((State.powerOn b g0 g1 g2).ctr n).cfg = false ∧
      ((State.powerOn b g0 g1 g2).ctr n).run = false ∧ ((State.powerOn b g0 g1 g2).ctr n).crl = none ∧
      ((State.powerOn b g0 g1 g2).ctr n).crm = none ∧ ((State.powerOn b g0 g1 g2).ctr n).bc = none) ∧
    ((State.powerOn b g0 g1 g2).ctr .c0).gate = g0 ∧ ((State.powerOn b g0 g1 g2).ctr .c1).gate = g1 ∧
    ((State.powerOn b g0 g1 g2).ctr .c2).gate = g2

/-- `State.reset` is a power-on state, so it satisfies the invariant (R28; the parameter values are the model's, logs 7
to 11). -/
def Obligations.ResetInv : Prop := Inv State.reset

/-- Every step keeps the invariant: counter registers hold legal counts, a running count is a number of at least 1,
HALF is in range, a captured value's counter is set up and not in mid-read, the output pin says of the count what its
mode's waveform says, and program memory keeps its canonical form. -/
def Obligations.StepKeepsInv : Prop :=
  ∀ s t : State, Inv s → step s = .next t → Inv t

/-- R8, R100: no step from a state of the invariant applies `dec1` or `val` where they are not defined (the refusal is
the model's, log 17). -/
def Obligations.CountsAreDefined : Prop :=
  ∀ s : State, Inv s → step s ≠ .refused .undefinedCount

/-- R191: the environment meets one refusal only: from a state of the invariant a pulse is refused exactly at the
terminal count of modes 2 and 3 with the gate at 1 and the counter not completely loaded, and a gate change exactly at
a rise in modes 1, 2, 3 and 5 with the counter not completely loaded, and the reason is `NotLoaded` (D12). -/
def Obligations.EnvironmentRefusals : Prop :=
  ∀ (s : State) (n : CtrIdx), Inv s →
    (∀ r, exec (.clkPulse n) s = .refused r ↔
      r = .notLoaded ∧ (s.ctr n).cfg = true ∧ ((s.ctr n).mode = .m2 ∨ (s.ctr n).mode = .m3) ∧
        (s.ctr n).run = true ∧ countIs (s.ctr n) 1 = true ∧ (s.ctr n).gate = true ∧
        loadedCount (s.ctr n) = none) ∧
    (∀ v r, exec (.gateSet n v) s = .refused r ↔
      r = .notLoaded ∧ v = true ∧ (s.ctr n).gate = false ∧ (s.ctr n).cfg = true ∧ (s.ctr n).mode ≠ .m0 ∧
        (s.ctr n).mode ≠ .m4 ∧ loadedCount (s.ctr n) = none)

/-! ## The output as an interrupt request -/

/-- R193: in mode 0 the request on the wired pin appears with the pulse that reaches the terminal count, is kept by
every pulse and gate change on the counter after it (D13), and is cleared by the mode-0 control word. -/
def Obligations.InterruptRequestOfMode0 : Prop :=
  ∀ (s : State) (n : CtrIdx) (p : IrqPin), (s.ctr n).cfg = true → (s.ctr n).mode = .m0 →
    irqPinOf (wiringOf s.board n) = some p →
    ((s.ctr n).run = true → (s.ctr n).gate = true → countIs (s.ctr n) 1 = true →
      ∃ t, exec (.clkPulse n) s = .next t ∧ interruptRequest t n = some p) ∧
    ((s.ctr n).run = false → (s.ctr n).out = .hi → ∀ i, pinTarget i = some n →
      ∃ t, exec i s = .next t ∧ interruptRequest t n = some p ∧ (t.ctr n).run = false) ∧
    (∀ rw bcd, (s.ctr n).wph = .ls → (s.ctr n).rph = .ls → latchIsOf s.latch n = false →
      ∃ t, exec (.cwMode0 n rw bcd) s = .next t ∧ interruptRequest t n = none)
end

