-- ==== Sys2Proof/Laws/Arithmetic.lean ====
section
/-! SUPPORT. What `val`, `enc` and `dec1` of R8 are to each other. -/

namespace Sys2Proof.Machine

/-- The largest number a word stands for: 65535 in binary, 9999 in decimal (R8). -/
def maxCount (b : Bool) : Nat := if b then 9999 else 65535

theorem val_binary (w : Word) : val w false = some w.toNat := rfl

theorem val_enc_binary {k : Nat} (h : k ≤ 65535) : val (enc k false) false = some k := by
  simp [val, enc]; omega

theorem toNat_enc_decimal (k : Nat) (h : k ≤ 9999) :
    (enc k true).toNat = k / 1000 * 4096 + k / 100 % 10 * 256 + k / 10 % 10 * 16 + k % 10 := by
  simp only [enc, if_true, BitVec.toNat_append, BitVec.toNat_ofNat, Nat.shiftLeft_eq]
  rw [← Nat.shiftLeft_eq, ← Nat.shiftLeft_eq, ← Nat.shiftLeft_eq, ← Nat.shiftLeft_add_eq_or_of_lt (by omega),
    ← Nat.shiftLeft_add_eq_or_of_lt (by omega), ← Nat.shiftLeft_add_eq_or_of_lt (by omega)]
  simp only [Nat.shiftLeft_eq]
  omega

/-- The four hex digits of a word, as numbers. -/
theorem toNat_digits (w : Word) :
    (w.extractLsb' 12 4).toNat = w.toNat / 4096 ∧ (w.extractLsb' 8 4).toNat = w.toNat / 256 % 16 ∧
      (w.extractLsb' 4 4).toNat = w.toNat / 16 % 16 ∧ (w.extractLsb' 0 4).toNat = w.toNat % 16 := by
  have := w.isLt
  simp only [BitVec.extractLsb'_toNat, Nat.shiftRight_eq_div_pow]
  norm_num
  omega

/-- `val` in decimal, on the digits of the word's number (R8). -/
theorem val_decimal (w : Word) :
    val w true =
      if w.toNat / 4096 ≤ 9 ∧ w.toNat / 256 % 16 ≤ 9 ∧ w.toNat / 16 % 16 ≤ 9 ∧ w.toNat % 16 ≤ 9 then
        some (1000 * (w.toNat / 4096) + 100 * (w.toNat / 256 % 16) + 10 * (w.toNat / 16 % 16) + w.toNat % 16)
      else none := by
  obtain ⟨d3, d2, d1, d0⟩ := toNat_digits w
  simp only [val, bcdDigits, if_true, d3, d2, d1, d0]
  split <;> rfl

theorem val_enc_decimal {k : Nat} (h : k ≤ 9999) : val (enc k true) true = some k := by
  obtain ⟨d3, hd3⟩ : ∃ d, d = k / 1000 := ⟨_, rfl⟩
  obtain ⟨d2, hd2⟩ : ∃ d, d = k / 100 % 10 := ⟨_, rfl⟩
  obtain ⟨d1, hd1⟩ : ∃ d, d = k / 10 % 10 := ⟨_, rfl⟩
  obtain ⟨d0, hd0⟩ : ∃ d, d = k % 10 := ⟨_, rfl⟩
  have b2 : d2 < 10 := by omega
  have b1 : d1 < 10 := by omega
  have b0 : d0 < 10 := by omega
  have b3 : d3 < 10 := by omega
  have hk : k = 1000 * d3 + 100 * d2 + 10 * d1 + d0 := by omega
  rw [val_decimal, toNat_enc_decimal k h, ← hd3, ← hd2, ← hd1, ← hd0, hk]
  clear hd3 hd2 hd1 hd0 hk h
  have e3 : (d3 * 4096 + d2 * 256 + d1 * 16 + d0) / 4096 = d3 := by omega
  have e2 : (d3 * 4096 + d2 * 256 + d1 * 16 + d0) / 256 % 16 = d2 := by omega
  have e1 : (d3 * 4096 + d2 * 256 + d1 * 16 + d0) / 16 % 16 = d1 := by omega
  have e0 : (d3 * 4096 + d2 * 256 + d1 * 16 + d0) % 16 = d0 := by omega
  rw [e3, e2, e1, e0, if_pos (by omega)]

theorem val_le_max {w : Word} {b : Bool} {k : Nat} (h : val w b = some k) : k ≤ maxCount b := by
  cases b with
  | false =>
    simp only [val_binary, Option.some.injEq] at h
    have := w.isLt
    show k ≤ 65535
    omega
  | true =>
    rw [val_decimal] at h
    split at h
    · simp only [Option.some.injEq] at h
      show k ≤ 9999
      omega
    · cases h

/-- `enc` is an inverse of `val` on the numbers a word can stand for (R8). -/
theorem val_enc {k : Nat} {b : Bool} (h : k ≤ maxCount b) : val (enc k b) b = some k := by
  cases b with
  | false => exact val_enc_binary (by simpa [maxCount] using h)
  | true => exact val_enc_decimal (by simpa [maxCount] using h)

theorem val_zero (b : Bool) : val 0#16 b = some 0 := by cases b <;> rfl

/-- The terminal count is the one word that stands for 0 (R100). -/
theorem val_eq_zero_iff (w : Word) (b : Bool) : val w b = some 0 ↔ w = 0#16 := by
  constructor
  · intro h
    cases b with
    | false =>
      simp only [val_binary, Option.some.injEq] at h
      exact BitVec.eq_of_toNat_eq (by simpa using h)
    | true =>
      rw [val_decimal] at h
      split at h
      · simp only [Option.some.injEq] at h
        exact BitVec.eq_of_toNat_eq (by simp only [BitVec.toNat_ofNat]; omega)
      · cases h
  · rintro rfl; exact val_zero b

/-- Where `dec1` is defined, and what it is there (R8). -/
theorem dec1_eq_some_iff (w w' : Word) (b : Bool) :
    dec1 w b = some w' ↔ ∃ k, val w b = some (k + 1) ∧ w' = enc k b := by
  unfold dec1
  split
  · next k h => simp [h, eq_comm]
  · next h => simp [h]
  · next h => simp [h]

end Sys2Proof.Machine
end

