-- ==== Sys2Proof/Laws/Clock.lean ====
section
/-! SUPPORT. Clock periods, the times of pulses, and what the kit leaves open (R7, R194, R199, R221). -/

namespace Sys2Proof.Machine

/-- Every clock of every board is within the limit of 2 MHz (R7). -/
theorem clkWithinLimit_clkPeriodNs (b : Board) (n : CtrIdx) : clkWithinLimit (clkPeriodNs b n) = true := by
  cases n
  · exact b.clkPeriod0.atLeast
  · exact b.clkPeriod1.atLeast
  · exact b.clkPeriod2.atLeast

/-- A period is positive. -/
theorem clkPeriodNs_pos (b : Board) (n : CtrIdx) : 0 < clkPeriodNs b n :=
  lt_of_lt_of_le (by norm_num) (of_decide_eq_true (clkWithinLimit_clkPeriodNs b n))

@[simp] theorem pulseTimeNs_zero (b : Board) (n : CtrIdx) : pulseTimeNs b n 0 = 0 := by simp [pulseTimeNs]

/-- The times of successive runs of pulses add up. -/
theorem pulseTimeNs_add (b : Board) (n : CtrIdx) (j k : Nat) :
    pulseTimeNs b n (j + k) = pulseTimeNs b n j + pulseTimeNs b n k := by
  simp [pulseTimeNs, add_mul]

/-- What Out n drives on the kit is open but for Out 1 (R194; log 27). -/
@[simp] theorem wiringOf_onKit (b : Board) (n : CtrIdx) :
    wiringOf b.onKit n = if n = .c1 then .other else wiringOf b n := by
  cases n <;> rfl

end Sys2Proof.Machine
end

