-- ==== Sys2Proof/Laws/Counting.lean ====
section
/-! SUPPORT. What each act on one counter can do: one lemma per operation of Machine/Counting.lean. -/

namespace Sys2Proof.Machine

variable {c c' : Counter}

/-! ## Registers and comparisons -/

theorem countRegister_eq_some {w : Word} :
    countRegister c = some w ↔ ∃ m l, c.crm = some m ∧ c.crl = some l ∧ w = m ++ l := by
  unfold countRegister
  cases c.crm <;> cases c.crl <;> simp [eq_comm]

theorem loadedCount_eq_some {w : Word} :
    loadedCount c = some w ↔ c.wph = .ls ∧ ∃ m l, c.crm = some m ∧ c.crl = some l ∧ w = m ++ l := by
  unfold loadedCount
  cases c.wph <;> simp [countRegister_eq_some]

theorem countIs_eq_true {k : Nat} : countIs c k = true ↔ ∃ w, c.bc = some w ∧ val w c.bcd = some k := by
  unfold countIs
  cases c.bc <;> simp

theorem atTC_eq_true : atTC c = true ↔ c.bc = some 0#16 := by simp [atTC]

theorem atTC_iff_countIs : atTC c = countIs c 0 := by
  unfold atTC countIs
  cases c.bc with
  | none => rfl
  | some w =>
    rw [Bool.eq_iff_iff]
    simp [val_eq_zero_iff]

/-- The counts that `CheckCount` accepts (R82). -/
theorem checkCount_ok_iff {w : Word} {b : Bool} {m : Mode} :
    checkCount w b m = .ok () ↔ ∃ k, val w b = some (k + 1) ∧ (k = 0 → m = .m0 ∨ m = .m1) := by
  unfold checkCount
  split
  · next h => simp [h]
  · next h => simp [h]
  · next k h =>
    simp only [h]
    cases m <;> by_cases hk : k = 0 <;> simp [hk]

/-! ## Acts -/

/-- What a copy does (R22). -/
theorem copyCount_ok (h : copyCount c = .ok c') :
    ∃ w, loadedCount c = some w ∧
      ((c.mode ≠ .m3 ∧ c' = { c with bc := some w }) ∨
        (c.mode = .m3 ∧ ∃ k, val w c.bcd = some k ∧ c' = { c with bc := some w, half := k / 2 })) := by
  unfold copyCount at h
  split at h
  · cases h
  · next w hw =>
    refine ⟨w, hw, ?_⟩
    split at h
    · next hm =>
      split at h
      · next k hk => exact .inr ⟨hm, k, hk, by cases h; rfl⟩
      · cases h
    · next hm => exact .inl ⟨hm, by cases h; rfl⟩

/-- A copy goes through where the counter is completely loaded with a number (R22). -/
theorem copyCount_of_loaded {w : Word} {k : Nat} (hw : loadedCount c = some w) (hk : val w c.bcd = some k) :
    copyCount c = .ok { c with bc := some w, half := if c.mode = .m3 then k / 2 else c.half } := by
  unfold copyCount
  rw [hw]
  by_cases hm : c.mode = .m3 <;> simp [hm, hk]

/-- A copy of a counter register that is not completely loaded is refused (R22). -/
theorem copyCount_not_loaded (h : loadedCount c = none) : copyCount c = .error .notLoaded := by
  simp [copyCount, h]

/-- What a count-down step does (R100). -/
theorem countDown_ok (h : countDown c = .ok c') :
    ∃ w k, c.bc = some w ∧ val w c.bcd = some (k + 1) ∧ c' = { c with bc := some (enc k c.bcd) } := by
  unfold countDown at h
  split at h
  · cases h
  · next w hw =>
    split at h
    · cases h
    · next w' hw' =>
      obtain ⟨k, hk, rfl⟩ := (dec1_eq_some_iff _ _ _).1 hw'
      exact ⟨w, k, hw, hk, by cases h; rfl⟩

/-- A count-down step goes through from every number of at least 1 (R100). -/
theorem countDown_of_val {w : Word} {k : Nat} (hw : c.bc = some w) (hk : val w c.bcd = some (k + 1)) :
    countDown c = .ok { c with bc := some (enc k c.bcd) } := by
  simp [countDown, hw, (dec1_eq_some_iff w (enc k c.bcd) c.bcd).2 ⟨k, hk, rfl⟩]

/-- After a count-down step the BCounter stands for one less (R100). -/
theorem val_after_countDown {w : Word} {k : Nat} {b : Bool} (hk : val w b = some (k + 1)) :
    val (enc k b) b = some k :=
  val_enc (Nat.le_of_succ_le (val_le_max hk))

/-- What starting a count does (R101, R112, R121, R122, R141, R152). -/
theorem startCount_ok {o : OutPin} (h : startCount c o = .ok c') :
    ∃ d, copyCount c = .ok d ∧ c' = { d with run := true, out := o } := by
  unfold startCount at h
  split at h
  · next d hd => exact ⟨d, hd, by cases h; rfl⟩
  · cases h

theorem lowAt_cases (k : Nat) (c : Counter) :
    (countIs c k = true ∧ lowAt k c = { c with out := .lo }) ∨ (countIs c k = false ∧ lowAt k c = c) := by
  unfold lowAt
  cases countIs c k <;> simp

theorem stopAtTC_cases (c : Counter) :
    (atTC c = true ∧ stopAtTC c = { c with out := .hi, run := false }) ∨ (atTC c = false ∧ stopAtTC c = c) := by
  unfold stopAtTC
  cases atTC c <;> simp

/-- What the terminal count of modes 2 and 3 does (R124, R133). -/
theorem reloadAtTC_ok (h : reloadAtTC c = .ok c') :
    (atTC c = false ∧ c' = c) ∨ (atTC c = true ∧ c.gate = false ∧ c' = { c with out := .hi, run := false }) ∨
      (atTC c = true ∧ c.gate = true ∧ copyCount { c with out := .hi } = .ok c') := by
  unfold reloadAtTC at h
  cases hz : atTC c <;> cases hg : c.gate <;> simp_all

/-! ## Frames: what an event leaves unchanged -/

/-- The components that neither a pulse nor a copy writes. -/
def SameSetting (c c' : Counter) : Prop :=
  c'.cfg = c.cfg ∧ c'.mode = c.mode ∧ c'.bcd = c.bcd ∧ c'.rw = c.rw ∧ c'.crl = c.crl ∧ c'.crm = c.crm ∧
    c'.wph = c.wph ∧ c'.rph = c.rph

theorem SameSetting.refl (c : Counter) : SameSetting c c := ⟨rfl, rfl, rfl, rfl, rfl, rfl, rfl, rfl⟩

theorem SameSetting.trans {c d e : Counter} (h : SameSetting c d) (h' : SameSetting d e) : SameSetting c e := by
  simp_all [SameSetting]

theorem SameSetting.loaded (h : SameSetting c c') : loadedCount c' = loadedCount c := by
  obtain ⟨-, -, -, -, hl, hm, hw, -⟩ := h
  simp [loadedCount, countRegister, hl, hm, hw]

theorem copyCount_setting (h : copyCount c = .ok c') : SameSetting c c' ∧ c'.gate = c.gate := by
  obtain ⟨w, -, ⟨-, rfl⟩ | ⟨-, k, -, rfl⟩⟩ := copyCount_ok h <;> exact ⟨SameSetting.refl c, rfl⟩

theorem countDown_setting (h : countDown c = .ok c') : SameSetting c c' ∧ c'.gate = c.gate := by
  obtain ⟨w, k, -, -, rfl⟩ := countDown_ok h
  exact ⟨SameSetting.refl c, rfl⟩

theorem startCount_setting {o : OutPin} (h : startCount c o = .ok c') : SameSetting c c' ∧ c'.gate = c.gate := by
  obtain ⟨d, hd, rfl⟩ := startCount_ok h
  have k := copyCount_setting hd
  exact k

theorem lowAt_setting (k : Nat) (c : Counter) : SameSetting c (lowAt k c) ∧ (lowAt k c).gate = c.gate := by
  obtain ⟨-, e⟩ | ⟨-, e⟩ := lowAt_cases k c <;> rw [e] <;> exact ⟨SameSetting.refl c, rfl⟩

theorem stopAtTC_setting (c : Counter) : SameSetting c (stopAtTC c) ∧ (stopAtTC c).gate = c.gate := by
  obtain ⟨-, e⟩ | ⟨-, e⟩ := stopAtTC_cases c <;> rw [e] <;> exact ⟨SameSetting.refl c, rfl⟩

theorem reloadAtTC_setting (h : reloadAtTC c = .ok c') : SameSetting c c' ∧ c'.gate = c.gate := by
  obtain ⟨-, rfl⟩ | ⟨-, -, rfl⟩ | ⟨-, -, hc⟩ := reloadAtTC_ok h
  · exact ⟨SameSetting.refl _, rfl⟩
  · exact ⟨SameSetting.refl c, rfl⟩
  · have k := copyCount_setting hc
    exact k

/-! ## Inversion of the reactions -/

/-- A pulse that counts: a count-down step, and then what the mode does with the new count. -/
theorem clock0_ok (h : clock0 c = .ok c') :
    ((c.run && c.gate) = false ∧ c' = c) ∨ ((c.run && c.gate) = true ∧ ∃ d, countDown c = .ok d ∧ c' = stopAtTC d) := by
  unfold clock0 at h
  cases hg : (c.run && c.gate) <;> rw [hg] at h
  · exact .inl ⟨rfl, by cases h; rfl⟩
  · cases hd : countDown c with
    | error r => simp [hd] at h
    | ok d => exact .inr ⟨rfl, d, rfl, by simpa [hd] using h.symm⟩

theorem clock1_ok (h : clock1 c = .ok c') :
    (c.run = false ∧ c' = c) ∨ (c.run = true ∧ ∃ d, countDown c = .ok d ∧ c' = stopAtTC d) := by
  unfold clock1 at h
  cases hg : c.run <;> rw [hg] at h
  · exact .inl ⟨rfl, by cases h; rfl⟩
  · cases hd : countDown c with
    | error r => simp [hd] at h
    | ok d => exact .inr ⟨rfl, d, rfl, by simpa [hd] using h.symm⟩

theorem clock2_ok (h : clock2 c = .ok c') :
    (c.run = false ∧ c' = c) ∨ (c.run = true ∧ ∃ d, countDown c = .ok d ∧ reloadAtTC (lowAt 1 d) = .ok c') := by
  unfold clock2 at h
  cases hg : c.run <;> rw [hg] at h
  · exact .inl ⟨rfl, by cases h; rfl⟩
  · cases hd : countDown c with
    | error r => simp [hd] at h
    | ok d => exact .inr ⟨rfl, d, rfl, by simpa [hd] using h⟩

theorem clock3_ok (h : clock3 c = .ok c') :
    (c.run = false ∧ c' = c) ∨
      (c.run = true ∧ ∃ d, countDown c = .ok d ∧ reloadAtTC (lowAt c.half d) = .ok c') := by
  unfold clock3 at h
  cases hg : c.run <;> rw [hg] at h
  · exact .inl ⟨rfl, by cases h; rfl⟩
  · cases hd : countDown c with
    | error r => simp [hd] at h
    | ok d => exact .inr ⟨rfl, d, rfl, by simpa [hd] using h⟩

theorem clock4_ok (h : clock4 c = .ok c') :
    ((c.run && c.gate) = false ∧ c' = c) ∨
      ((c.run && c.gate) = true ∧ ∃ d, countDown c = .ok d ∧ c' = stopAtTC (lowAt 1 d)) := by
  unfold clock4 at h
  cases hg : (c.run && c.gate) <;> rw [hg] at h
  · exact .inl ⟨rfl, by cases h; rfl⟩
  · cases hd : countDown c with
    | error r => simp [hd] at h
    | ok d => exact .inr ⟨rfl, d, rfl, by simpa [hd] using h.symm⟩

theorem clock5_ok (h : clock5 c = .ok c') :
    (c.run = false ∧ c' = c) ∨ (c.run = true ∧ ∃ d, countDown c = .ok d ∧ c' = stopAtTC (lowAt 1 d)) := by
  unfold clock5 at h
  cases hg : c.run <;> rw [hg] at h
  · exact .inl ⟨rfl, by cases h; rfl⟩
  · cases hd : countDown c with
    | error r => simp [hd] at h
    | ok d => exact .inr ⟨rfl, d, rfl, by simpa [hd] using h.symm⟩

/-- A pulse writes neither the setting nor the counter register nor a phase nor the gate (R14, R24). -/
theorem clockCounter_setting (h : clockCounter c = .ok c') : SameSetting c c' ∧ c'.gate = c.gate := by
  have down : ∀ {d e : Counter}, countDown c = .ok d → SameSetting d e ∧ e.gate = d.gate →
      SameSetting c e ∧ e.gate = c.gate := fun hd he =>
    ⟨(countDown_setting hd).1.trans he.1, he.2.trans (countDown_setting hd).2⟩
  have both : ∀ {d e f : Counter}, SameSetting d e ∧ e.gate = d.gate → SameSetting e f ∧ f.gate = e.gate →
      SameSetting d f ∧ f.gate = d.gate := fun he hf => ⟨he.1.trans hf.1, hf.2.trans he.2⟩
  unfold clockCounter at h
  split at h
  · split at h
    · obtain ⟨-, rfl⟩ | ⟨-, d, hd, rfl⟩ := clock0_ok h
      · exact ⟨SameSetting.refl _, rfl⟩
      · exact down hd (stopAtTC_setting d)
    · obtain ⟨-, rfl⟩ | ⟨-, d, hd, rfl⟩ := clock1_ok h
      · exact ⟨SameSetting.refl _, rfl⟩
      · exact down hd (stopAtTC_setting d)
    · obtain ⟨-, rfl⟩ | ⟨-, d, hd, hr⟩ := clock2_ok h
      · exact ⟨SameSetting.refl _, rfl⟩
      · exact down hd (both (lowAt_setting 1 d) (reloadAtTC_setting hr))
    · obtain ⟨-, rfl⟩ | ⟨-, d, hd, hr⟩ := clock3_ok h
      · exact ⟨SameSetting.refl _, rfl⟩
      · exact down hd (both (lowAt_setting _ d) (reloadAtTC_setting hr))
    · obtain ⟨-, rfl⟩ | ⟨-, d, hd, rfl⟩ := clock4_ok h
      · exact ⟨SameSetting.refl _, rfl⟩
      · exact down hd (both (lowAt_setting 1 d) (stopAtTC_setting _))
    · obtain ⟨-, rfl⟩ | ⟨-, d, hd, rfl⟩ := clock5_ok h
      · exact ⟨SameSetting.refl _, rfl⟩
      · exact down hd (both (lowAt_setting 1 d) (stopAtTC_setting _))
  · cases h; exact ⟨SameSetting.refl _, rfl⟩

/-- What a gate change can do (R24, R103, R112, R113, R122, R123, R132, R143, R152, R153, R212). -/
theorem gateCounter_ok {v : Bool} (h : gateCounter v c = .ok c') :
    (v = c.gate ∧ c' = c) ∨ c' = { c with gate := v } ∨
      (v = true ∧ c.gate = false ∧ c.cfg = true ∧ c.mode ≠ .m0 ∧ c.mode ≠ .m4 ∧
        startCount { c with gate := true } (if c.mode = .m1 then .lo else .hi) = .ok c') := by
  unfold gateCounter at h
  split at h
  · next hv => exact .inl ⟨hv, by cases h; rfl⟩
  · next hv =>
    split at h
    · next hc =>
      unfold gateInMode gateLevel gateTrigger at h
      cases hm : c.mode <;> cases v <;> simp_all
    · exact .inr (.inl (by cases h; rfl))

/-- A gate change writes neither the setting nor the counter register nor a phase, and leaves the gate at the new
level. -/
theorem gateCounter_setting {v : Bool} (h : gateCounter v c = .ok c') : SameSetting c c' ∧ c'.gate = v := by
  obtain ⟨hv, rfl⟩ | rfl | ⟨rfl, -, -, -, -, hs⟩ := gateCounter_ok h
  · exact ⟨SameSetting.refl _, hv.symm⟩
  · exact ⟨SameSetting.refl c, rfl⟩
  · exact startCount_setting hs

/-- A completed load has a legal count and is then the load rule of the mode (R79). -/
theorem loadComplete_ok {p : Mode0Reload} {level : Bool} (h : loadComplete p level c = .ok c') :
    ∃ w, loadedCount c = some w ∧ checkCount w c.bcd c.mode = .ok () ∧
      match c.mode with
      | .m0 => load0 p level c = .ok c'
      | .m1 => c' = c
      | .m2 => load2 c = .ok c'
      | .m3 => load3 c = .ok c'
      | .m4 => startCount c .hi = .ok c'
      | .m5 => c' = c := by
  unfold loadComplete at h
  split at h
  · cases h
  · next w hw =>
    refine ⟨w, hw, ?_⟩
    split at h
    · cases h
    · next hk =>
      refine ⟨hk, ?_⟩
      cases hm : c.mode <;> simp only [hm] at h ⊢
      · exact h
      · exact (by simpa [load1] using h.symm)
      · exact h
      · exact h
      · exact h
      · exact (by simpa [load5] using h.symm)

/-- `Load0` (R101). -/
theorem load0_ok {p : Mode0Reload} {level : Bool} (h : load0 p level c = .ok c') :
    (c.bc ≠ none ∧ c.run = false ∧ ∃ o, reloadLevel p level = .ok o ∧ startCount c o = .ok c') ∨
      ((c.bc = none ∨ c.run = true) ∧ startCount c c.out = .ok c') := by
  unfold load0 at h
  cases hb : c.bc <;> cases hr : c.run <;> simp [hb, hr] at h
  · exact .inr ⟨.inl rfl, h⟩
  · exact .inr ⟨.inl rfl, h⟩
  · refine .inl ⟨by simp, rfl, ?_⟩
    split at h
    · cases h
    · next o ho => exact ⟨o, ho, h⟩
  · exact .inr ⟨.inr rfl, h⟩

/-- `Load2` and `Load3` (R121, R131). -/
theorem load2_ok (h : load2 c = .ok c') :
    ((c.gate && !c.run) = true ∧ startCount c .hi = .ok c') ∨ ((c.gate && !c.run) = false ∧ c' = c) := by
  unfold load2 at h
  cases hg : (c.gate && !c.run) <;> rw [hg] at h
  · exact .inr ⟨rfl, by cases h; rfl⟩
  · exact .inl ⟨rfl, h⟩

theorem load3_ok (h : load3 c = .ok c') :
    ((c.gate && !c.run) = true ∧ startCount c .hi = .ok c') ∨ ((c.gate && !c.run) = false ∧ c' = c) :=
  load2_ok h

/-- A completed load writes neither the setting nor the counter register nor a phase nor the gate: those were written
before it (R79). -/
theorem loadComplete_setting {p : Mode0Reload} {level : Bool} (h : loadComplete p level c = .ok c') :
    SameSetting c c' ∧ c'.gate = c.gate := by
  obtain ⟨w, -, -, hl⟩ := loadComplete_ok h
  cases hm : c.mode <;> simp only [hm] at hl
  · obtain ⟨-, -, o, -, hs⟩ | ⟨-, hs⟩ := load0_ok hl <;> exact startCount_setting hs
  · rw [hl]; exact ⟨SameSetting.refl c, rfl⟩
  · obtain ⟨-, hs⟩ | ⟨-, rfl⟩ := load2_ok hl
    · exact startCount_setting hs
    · exact ⟨SameSetting.refl _, rfl⟩
  · obtain ⟨-, hs⟩ | ⟨-, rfl⟩ := load3_ok hl
    · exact startCount_setting hs
    · exact ⟨SameSetting.refl _, rfl⟩
  · exact startCount_setting hl
  · rw [hl]; exact ⟨SameSetting.refl c, rfl⟩

/-- What a write to the counter port can do (R76 to R79): the LS byte of a two-byte load is stored, or the load is
completed with the byte stored. -/
theorem writeByte_ok {b : Board} {level : Bool} {d : Byte} (h : writeByte b level d c = .ok c') :
    (c.rw = .lsms ∧ c.wph = .ls ∧ c' = { c with crl := some d, wph := .ms }) ∨
      (c.rw = .lsms ∧ c.wph = .ms ∧
        loadComplete b.mode0Reload level { c with crm := some d, wph := .ls } = .ok c') ∨
      (c.rw = .ls ∧ b.singleByteOther = .zero ∧
        loadComplete b.mode0Reload level { c with crl := some d, crm := some 0#8 } = .ok c') ∨
      (c.rw = .ms ∧ b.singleByteOther = .zero ∧
        loadComplete b.mode0Reload level { c with crm := some d, crl := some 0#8 } = .ok c') := by
  unfold writeByte writeLSOnly writeMSOnly writeTwoByte at h
  cases hr : c.rw <;> cases hs : b.singleByteOther <;> cases hw : c.wph <;> simp_all [eq_comm]

/-- A write to the counter port leaves the setting, the read phase and the gate (R12, R16, R21). -/
theorem writeByte_setting {b : Board} {level : Bool} {d : Byte} (h : writeByte b level d c = .ok c') :
    c'.cfg = c.cfg ∧ c'.mode = c.mode ∧ c'.bcd = c.bcd ∧ c'.rw = c.rw ∧ c'.rph = c.rph ∧ c'.gate = c.gate := by
  have key : ∀ {e : Counter}, loadComplete b.mode0Reload level e = .ok c' →
      c'.cfg = e.cfg ∧ c'.mode = e.mode ∧ c'.bcd = e.bcd ∧ c'.rw = e.rw ∧ c'.rph = e.rph ∧ c'.gate = e.gate := by
    intro e he
    obtain ⟨⟨h1, h2, h3, h4, -, -, -, h8⟩, hg⟩ := loadComplete_setting he
    exact ⟨h1, h2, h3, h4, h8, hg⟩
  obtain ⟨-, -, rfl⟩ | ⟨-, -, hl⟩ | ⟨-, -, hl⟩ | ⟨-, -, hl⟩ := writeByte_ok h
  · exact ⟨rfl, rfl, rfl, rfl, rfl, rfl⟩
  · have k := key hl; exact k
  · have k := key hl; exact k
  · have k := key hl; exact k

end Sys2Proof.Machine
end

