-- ==== Sys2Proof/Laws/Memory.lean ====
section
/-! SUPPORT. Program memory: every operation keeps the canonical form, and a read answers the last write. -/

namespace Sys2Proof.Machine

theorem Memory.wf_cons (x : Host.Cell) (m : Memory) :
    Memory.wf (x :: m) = true ↔ x.1 < 65536 ∧ (∀ y ∈ m, x.1 < y.1) ∧ Memory.wf m = true := by
  simp [Memory.wf, and_assoc]

theorem Memory.mem_write {m : Memory} {a : Nat} {b : Byte} {y : Host.Cell} (h : y ∈ Memory.write m a b) :
    y = (a, b) ∨ y ∈ m := by
  induction m with
  | nil => simpa [Memory.write] using h
  | cons x rest ih =>
    unfold Memory.write at h
    split at h
    · simpa using h
    · split at h
      · simp only [List.mem_cons] at h ⊢
        tauto
      · simp only [List.mem_cons] at h ⊢
        rcases h with h | h
        · exact .inr (.inl h)
        · have := ih h; tauto

/-- A write keeps the canonical form. -/
theorem Memory.write_wf {m : Memory} {a : Nat} (b : Byte) (h : Memory.wf m = true) (ha : a < 65536) :
    Memory.wf (Memory.write m a b) = true := by
  induction m with
  | nil => simp [Memory.write, Memory.wf, ha]
  | cons x rest ih =>
    obtain ⟨hx, hlt, hr⟩ := (Memory.wf_cons x rest).1 h
    unfold Memory.write
    split
    · next hax =>
      refine (Memory.wf_cons _ _).2 ⟨ha, fun y hy => ?_, h⟩
      simp only [List.mem_cons] at hy
      rcases hy with rfl | hy
      · exact hax
      · exact Nat.lt_trans hax (hlt y hy)
    · split
      · next hax => exact (Memory.wf_cons _ _).2 ⟨ha, fun y hy => hax ▸ hlt y hy, hr⟩
      · next h1 h2 =>
        refine (Memory.wf_cons _ _).2 ⟨hx, fun y hy => ?_, ih hr⟩
        rcases Memory.mem_write hy with rfl | hy
        · show x.1 < a
          omega
        · exact hlt y hy

theorem Memory.read_none_of_lt {m : Memory} {a : Nat} (h : ∀ y ∈ m, a < y.1) : Memory.read m a = none := by
  induction m with
  | nil => rfl
  | cons x rest ih =>
    have hx := h x (by simp)
    simp only [Memory.read]
    rw [if_neg (by omega)]
    exact ih fun y hy => h y (by simp [hy])

/-- A read after a write to the same address answers the byte written. -/
theorem Memory.read_write_same (m : Memory) (a : Nat) (b : Byte) : Memory.read (Memory.write m a b) a = some b := by
  induction m with
  | nil => simp [Memory.write, Memory.read]
  | cons x rest ih =>
    unfold Memory.write
    split
    · simp [Memory.read]
    · split
      · simp [Memory.read]
      · next h1 h2 => simp only [Memory.read]; rw [if_neg (by omega)]; exact ih

/-- A write leaves every other address alone. -/
theorem Memory.read_write_other (m : Memory) {a a' : Nat} (b : Byte) (h : a' ≠ a) :
    Memory.read (Memory.write m a b) a' = Memory.read m a' := by
  induction m with
  | nil => simp only [Memory.write, Memory.read]; rw [if_neg (by simpa using h.symm)]
  | cons x rest ih =>
    unfold Memory.write
    split
    · simp only [Memory.read]; rw [if_neg (by omega)]
    · split
      · next h1 h2 => simp only [Memory.read]; rw [if_neg (by omega), if_neg (by omega)]
      · simp only [Memory.read, ih]

/-- Placing code keeps the canonical form. -/
theorem writeCode_wf {m : Memory} (pc : Word) (bytes : List Byte) (h : Memory.wf m = true) :
    Memory.wf (writeCode m pc bytes) = true := by
  induction bytes generalizing m pc with
  | nil => exact h
  | cons b rest ih => exact ih _ (Memory.write_wf b h pc.isLt)

/-- Placing an instruction for the next step keeps the canonical form. -/
theorem placeEncoding_wf {s : State} (e : Encoding) (h : Memory.wf s.mem = true) :
    Memory.wf (placeEncoding s e).mem = true := by
  cases e with
  | wire x => exact h
  | code bytes => exact writeCode_wf _ bytes h

theorem reset_memory_wf : Memory.wf State.reset.mem = true := rfl

/-- What a fetched byte is (log 12). -/
theorem fetchByte_ok_iff {m : Memory} {pc : Word} {b : Byte} :
    fetchByte m pc = .ok b ↔ Memory.read m pc.toNat = some b := by
  unfold fetchByte
  split <;> simp_all

/-- What the bytes of a fetched instruction are: one, or two where the opcode takes a second (R57). -/
theorem fetchCode_ok {m : Memory} {pc : Word} {bytes : List Byte} (h : fetchCode m pc = .ok bytes) :
    ∃ op, Memory.read m pc.toNat = some op ∧
      ((takesOperand op = false ∧ bytes = [op]) ∨
        (takesOperand op = true ∧ ∃ b, Memory.read m (pcNext pc).toNat = some b ∧ bytes = [op, b])) := by
  unfold fetchCode at h
  split at h
  · cases h
  · next op hop =>
    refine ⟨op, fetchByte_ok_iff.1 hop, ?_⟩
    split at h
    · next ht =>
      split at h
      · cases h
      · next b hb => exact .inr ⟨ht, b, fetchByte_ok_iff.1 hb, by cases h; rfl⟩
    · next ht => exact .inl ⟨by simpa using ht, by cases h; rfl⟩

end Sys2Proof.Machine
end

