-- ==== Sys2Proof/Laws/State.lean ====
section
/-! SUPPORT. What each update of the state leaves in each field. -/

namespace Sys2Proof.Machine

/-! ## setCtr -/

@[simp] theorem State.ctr_setCtr_same (s : State) (n : CtrIdx) (c : Counter) : (s.setCtr n c).ctr n = c := by
  cases n <;> rfl

theorem State.ctr_setCtr_other (s : State) {n m : CtrIdx} (c : Counter) (h : m ≠ n) :
    (s.setCtr n c).ctr m = s.ctr m := by
  cases n <;> cases m <;> first | rfl | exact absurd rfl h

theorem State.ctr_setCtr (s : State) (n m : CtrIdx) (c : Counter) :
    (s.setCtr n c).ctr m = if m = n then c else s.ctr m := by
  cases n <;> cases m <;> rfl

@[simp] theorem State.setCtr_ctr (s : State) (n : CtrIdx) : s.setCtr n (s.ctr n) = s := by cases n <;> rfl

@[simp] theorem State.setCtr_setCtr (s : State) (n : CtrIdx) (c d : Counter) :
    (s.setCtr n c).setCtr n d = s.setCtr n d := by
  cases n <;> rfl

@[simp] theorem State.setCtr_latch (s : State) (n : CtrIdx) (c : Counter) : (s.setCtr n c).latch = s.latch := by
  cases n <;> rfl

@[simp] theorem State.setCtr_host (s : State) (n : CtrIdx) (c : Counter) : (s.setCtr n c).host = s.host := by
  cases n <;> rfl

@[simp] theorem State.setCtr_mem (s : State) (n : CtrIdx) (c : Counter) : (s.setCtr n c).mem = s.mem := by
  cases n <;> rfl

@[simp] theorem State.setCtr_board (s : State) (n : CtrIdx) (c : Counter) : (s.setCtr n c).board = s.board := by
  cases n <;> rfl

@[simp] theorem State.setCtr_inputs (s : State) (n : CtrIdx) (c : Counter) : (s.setCtr n c).inputs = s.inputs := by
  cases n <;> rfl

@[simp] theorem State.setCtr_dataPins (s : State) (n : CtrIdx) (c : Counter) :
    (s.setCtr n c).dataPins = s.dataPins := by
  cases n <;> rfl

@[simp] theorem State.setCtr_draws (s : State) (n : CtrIdx) (c : Counter) : (s.setCtr n c).draws = s.draws := by
  cases n <;> rfl

/-! ## tristate -/

@[simp] theorem State.tristate_ctr (s : State) (n : CtrIdx) : s.tristate.ctr n = s.ctr n := by cases n <;> rfl

@[simp] theorem State.tristate_latch (s : State) : s.tristate.latch = s.latch := rfl

@[simp] theorem State.tristate_host (s : State) : s.tristate.host = s.host := rfl

@[simp] theorem State.tristate_mem (s : State) : s.tristate.mem = s.mem := rfl

@[simp] theorem State.tristate_board (s : State) : s.tristate.board = s.board := rfl

@[simp] theorem State.tristate_inputs (s : State) : s.tristate.inputs = s.inputs := rfl

@[simp] theorem State.tristate_dataPins (s : State) : s.tristate.dataPins = .z := rfl

@[simp] theorem State.tristate_draws (s : State) : s.tristate.draws = s.draws := rfl

/-! ## drive -/

@[simp] theorem State.drive_ctr (s : State) (b : Byte) (n : CtrIdx) : (s.drive b).ctr n = s.ctr n := by
  cases n <;> rfl

@[simp] theorem State.drive_latch (s : State) (b : Byte) : (s.drive b).latch = s.latch := rfl

@[simp] theorem State.drive_host (s : State) (b : Byte) : (s.drive b).host = s.host := rfl

@[simp] theorem State.drive_mem (s : State) (b : Byte) : (s.drive b).mem = s.mem := rfl

@[simp] theorem State.drive_board (s : State) (b : Byte) : (s.drive b).board = s.board := rfl

@[simp] theorem State.drive_inputs (s : State) (b : Byte) : (s.drive b).inputs = s.inputs := rfl

@[simp] theorem State.drive_dataPins (s : State) (b : Byte) : (s.drive b).dataPins = .driven b := rfl

@[simp] theorem State.drive_draws (s : State) (b : Byte) : (s.drive b).draws = s.draws + 1 := rfl

/-! ## drawn -/

@[simp] theorem State.drawn_ctr (s : State) (n : CtrIdx) : s.drawn.ctr n = s.ctr n := by cases n <;> rfl

@[simp] theorem State.drawn_latch (s : State) : s.drawn.latch = s.latch := rfl

@[simp] theorem State.drawn_host (s : State) : s.drawn.host = s.host := rfl

@[simp] theorem State.drawn_mem (s : State) : s.drawn.mem = s.mem := rfl

@[simp] theorem State.drawn_board (s : State) : s.drawn.board = s.board := rfl

@[simp] theorem State.drawn_inputs (s : State) : s.drawn.inputs = s.inputs := rfl

@[simp] theorem State.drawn_dataPins (s : State) : s.drawn.dataPins = s.dataPins := rfl

@[simp] theorem State.drawn_draws (s : State) : s.drawn.draws = s.draws + 1 := rfl

/-! ## host registers -/

@[simp] theorem State.setA_ctr (s : State) (b : Byte) (n : CtrIdx) : (s.setA b).ctr n = s.ctr n := by cases n <;> rfl

@[simp] theorem State.setA_latch (s : State) (b : Byte) : (s.setA b).latch = s.latch := rfl

@[simp] theorem State.setA_host (s : State) (b : Byte) : (s.setA b).host = { s.host with a := b } := rfl

@[simp] theorem State.setA_mem (s : State) (b : Byte) : (s.setA b).mem = s.mem := rfl

@[simp] theorem State.setA_board (s : State) (b : Byte) : (s.setA b).board = s.board := rfl

@[simp] theorem State.setA_inputs (s : State) (b : Byte) : (s.setA b).inputs = s.inputs := rfl

@[simp] theorem State.setA_dataPins (s : State) (b : Byte) : (s.setA b).dataPins = s.dataPins := rfl

@[simp] theorem State.setA_draws (s : State) (b : Byte) : (s.setA b).draws = s.draws := rfl

@[simp] theorem State.pcBy1_ctr (s : State) (n : CtrIdx) : s.pcBy1.ctr n = s.ctr n := by cases n <;> rfl

@[simp] theorem State.pcBy1_latch (s : State) : s.pcBy1.latch = s.latch := rfl

@[simp] theorem State.pcBy1_host (s : State) : s.pcBy1.host = { s.host with pc := pcNext s.host.pc } := rfl

@[simp] theorem State.pcBy1_mem (s : State) : s.pcBy1.mem = s.mem := rfl

@[simp] theorem State.pcBy1_board (s : State) : s.pcBy1.board = s.board := rfl

@[simp] theorem State.pcBy1_inputs (s : State) : s.pcBy1.inputs = s.inputs := rfl

@[simp] theorem State.pcBy1_dataPins (s : State) : s.pcBy1.dataPins = s.dataPins := rfl

@[simp] theorem State.pcBy1_draws (s : State) : s.pcBy1.draws = s.draws := rfl

@[simp] theorem State.pcBy2_ctr (s : State) (n : CtrIdx) : s.pcBy2.ctr n = s.ctr n := by cases n <;> rfl

@[simp] theorem State.pcBy2_latch (s : State) : s.pcBy2.latch = s.latch := rfl

@[simp] theorem State.pcBy2_host (s : State) :
    s.pcBy2.host = { s.host with pc := pcNext (pcNext s.host.pc) } := rfl

@[simp] theorem State.pcBy2_mem (s : State) : s.pcBy2.mem = s.mem := rfl

@[simp] theorem State.pcBy2_board (s : State) : s.pcBy2.board = s.board := rfl

@[simp] theorem State.pcBy2_inputs (s : State) : s.pcBy2.inputs = s.inputs := rfl

@[simp] theorem State.pcBy2_dataPins (s : State) : s.pcBy2.dataPins = s.dataPins := rfl

@[simp] theorem State.pcBy2_draws (s : State) : s.pcBy2.draws = s.draws := rfl

/-- What the host receives, by what is on the data pins. -/
theorem State.receive_driven (s : State) (b : Byte) (h : s.dataPins = .driven b) : s.receive = s.setA b := by
  simp [State.receive, h]

theorem State.receive_z (s : State) (h : s.dataPins = .z) :
    s.receive = (s.setA (Config.any8 s.draws)).drawn := by
  simp [State.receive, h]

@[simp] theorem State.receive_ctr (s : State) (n : CtrIdx) : s.receive.ctr n = s.ctr n := by
  unfold State.receive; split <;> simp

@[simp] theorem State.receive_latch (s : State) : s.receive.latch = s.latch := by
  unfold State.receive; split <;> simp

@[simp] theorem State.receive_mem (s : State) : s.receive.mem = s.mem := by
  unfold State.receive; split <;> simp

@[simp] theorem State.receive_board (s : State) : s.receive.board = s.board := by
  unfold State.receive; split <;> simp

@[simp] theorem State.receive_inputs (s : State) : s.receive.inputs = s.inputs := by
  unfold State.receive; split <;> simp

@[simp] theorem State.receive_dataPins (s : State) : s.receive.dataPins = s.dataPins := by
  unfold State.receive; split <;> simp

@[simp] theorem State.receive_pc (s : State) : s.receive.host.pc = s.host.pc := by
  unfold State.receive; split <;> simp

@[simp] theorem State.receive_d (s : State) : s.receive.host.d = s.host.d := by
  unfold State.receive; split <;> simp

@[simp] theorem State.receive_e (s : State) : s.receive.host.e = s.host.e := by
  unfold State.receive; split <;> simp

end Sys2Proof.Machine
end

