-- ==== Sys2Proof/Laws/Ops.lean ====
section
/-! SUPPORT. What each operation over the whole state can do: if it answers a next state, then one of these. -/

namespace Sys2Proof.Machine

variable {s t : State} {n : CtrIdx}

@[simp] theorem ctrOfBits_ctrBits (n : CtrIdx) : ctrOfBits (ctrBits n) = some n := by cases n <;> rfl

@[simp] theorem rwOfBits_rwBits (rw : RW) : rwOfBits (rwBits rw) = some rw := by cases rw <;> rfl

@[simp] theorem modeOfBits_modeBits (m : Mode) : modeOfBits (modeBits m) = some m := by cases m <;> rfl

theorem andThen_eq_next {o : Result} {f : State → Result} :
    andThen o f = .next t ↔ ∃ u, o = .next u ∧ f u = .next t := by
  cases o <;> simp [andThen]

@[simp] theorem andThen_next (s : State) (f : State → Result) : andThen (.next s) f = f s := rfl

theorem onCounter_eq_next {f : Counter → Except Refusal Counter} :
    onCounter n f s = .next t ↔ ∃ c, f (s.ctr n) = .ok c ∧ t = s.setCtr n c := by
  unfold onCounter
  cases f (s.ctr n) <;> simp [eq_comm]

/-- What a mode-setting word does (R61). -/
theorem modeSet_eq_next {rw : RW} {m : Mode} {bcd : Bool} :
    modeSet n rw m bcd s = .next t ↔
      ((s.ctr n).cfg = true → midSequence (s.ctr n) = false ∧ latchIsOf s.latch n = false) ∧
        t = (s.setCtr n (setUp rw m bcd (s.ctr n))).tristate := by
  unfold modeSet
  cases (s.ctr n).cfg <;> cases midSequence (s.ctr n) <;> cases latchIsOf s.latch n <;> simp [eq_comm]

/-- What the read-on-the-fly command does (R68). -/
theorem latchCommand_eq_next :
    latchCommand n s = .next t ↔
      (s.ctr n).cfg = true ∧ s.latch = none ∧ midSequence (s.ctr n) = false ∧
        t = { s.tristate with latch := some { counter := n, value := (s.ctr n).bc, left := .two } } := by
  unfold latchCommand
  cases (s.ctr n).cfg <;> cases s.latch <;> cases midSequence (s.ctr n) <;> simp [eq_comm]

/-- What a control word does (R60): it is the read-on-the-fly command or a mode-setting word. -/
theorem controlWrite_next {d : Byte} (h : controlWrite d s = .next t) :
    ∃ n, ctrOfBits (cwSC d) = some n ∧
      ((rwOfBits (cwRW d) = none ∧ latchCommand n s = .next t) ∨
        ∃ rw m, rwOfBits (cwRW d) = some rw ∧ modeOfBits (cwM d) = some m ∧
          modeSet n rw m (cwBCD d) s = .next t) := by
  unfold controlWrite at h
  split at h
  · cases h
  · next n hn =>
    refine ⟨n, hn, ?_⟩
    split at h
    · next hr => exact .inl ⟨hr, h⟩
    · next rw hr =>
      split at h
      · cases h
      · next m hm => exact .inr ⟨rw, m, hr, hm, h⟩

/-- What a write to a counter port does (R76). -/
theorem counterWrite_eq_next {d : Byte} :
    counterWrite n d s = .next t ↔
      (s.ctr n).cfg = true ∧ (s.ctr n).rph = .ls ∧ latchHalfRead s.latch n = false ∧
        ∃ c, writeByte s.board (Config.mode0ReloadLevel s.draws) d (s.ctr n) = .ok c ∧
          t = s.tristate.drawn.setCtr n c := by
  unfold counterWrite
  cases (s.ctr n).cfg <;> cases (s.ctr n).rph <;> cases latchHalfRead s.latch n <;> simp [onCounter_eq_next]

/-- What a read of a counter port does (R86). -/
theorem counterRead_eq_next :
    counterRead n s = .next t ↔ (s.ctr n).cfg = true ∧ (s.ctr n).wph = .ls ∧ t = readCounter n s := by
  unfold counterRead
  cases (s.ctr n).cfg <;> cases (s.ctr n).wph <;> simp [@eq_comm _ t]

/-- A direct read writes at most the read phase of its counter (R90). -/
theorem directRead_cases (n : CtrIdx) (s : State) :
    (∃ b, directRead n s = s.drive b) ∨
      ((s.ctr n).rw = .lsms ∧ ∃ b p, directRead n s = (s.setCtr n { s.ctr n with rph := p }).drive b) := by
  unfold directRead
  cases hr : (s.ctr n).rw <;> cases hp : (s.ctr n).rph <;> simp only [hr, hp]
  all_goals first | exact .inl ⟨_, rfl⟩ | exact .inr ⟨trivial, _, _, rfl⟩

/-- What a read does once it is not refused (R86, R89, R90). -/
theorem readCounter_cases (n : CtrIdx) (s : State) :
    (latchIsOf s.latch n = false ∧ readCounter n s = directRead n s) ∨
      (∃ x, s.latch = some x ∧ x.counter = n ∧ readCounter n s = latchedRead n x.value x.left s) := by
  unfold readCounter latchIsOf
  cases hl : s.latch with
  | none => exact .inl ⟨rfl, rfl⟩
  | some x =>
    by_cases hx : x.counter = n
    · exact .inr ⟨x, rfl, hx, by simp [hx]⟩
    · exact .inl ⟨by simpa using hx, by simp [hx]⟩

/-- A read leaves the host, the memory, the board and the queue. -/
theorem readCounter_frame (n : CtrIdx) (s : State) :
    (readCounter n s).host = s.host ∧ (readCounter n s).mem = s.mem ∧ (readCounter n s).board = s.board ∧
      (readCounter n s).inputs = s.inputs := by
  obtain ⟨-, e⟩ | ⟨x, -, -, e⟩ := readCounter_cases n s
  · rw [e]
    obtain ⟨b, e'⟩ | ⟨-, b, p, e'⟩ := directRead_cases n s <;> rw [e'] <;> simp
  · rw [e]
    cases x.left <;> simp [latchedRead, State.drive]

theorem portWrite_next {a : BitVec 2} {d : Byte} (h : portWrite a d s = .next t) :
    (ctrOfBits a = none ∧ controlWrite d s = .next t) ∨
      ∃ n, ctrOfBits a = some n ∧ counterWrite n d s = .next t := by
  unfold portWrite at h
  split at h
  · next ha => exact .inl ⟨ha, h⟩
  · next n ha => exact .inr ⟨n, ha, h⟩

theorem portRead_next {a : BitVec 2} (h : portRead a s = .next t) :
    (ctrOfBits a = none ∧ t = s.tristate) ∨ ∃ n, ctrOfBits a = some n ∧ counterRead n s = .next t := by
  unfold portRead at h
  split at h
  · next ha => exact .inl ⟨ha, by simpa [busNop] using h.symm⟩
  · next n ha => exact .inr ⟨n, ha, h⟩

theorem hostOut_next {a8 : Byte} (h : hostOut a8 s = .next t) :
    (selects8253 s.board a8 = true ∧ portWrite (devicePort a8) s.host.a s = .next t) ∨
      (selects8253 s.board a8 = false ∧ t = s.tristate) := by
  unfold hostOut at h
  cases hb : selects8253 s.board a8 <;> rw [hb] at h
  · exact .inr ⟨rfl, by simpa [busNop] using h.symm⟩
  · exact .inl ⟨rfl, h⟩

theorem hostIn_next {a8 : Byte} (h : hostIn a8 s = .next t) :
    (selects8253 s.board a8 = true ∧ portRead (devicePort a8) s = .next t) ∨
      (selects8253 s.board a8 = false ∧ t = s.tristate) := by
  unfold hostIn at h
  cases hb : selects8253 s.board a8 <;> rw [hb] at h
  · exact .inr ⟨rfl, by simpa [busNop] using h.symm⟩
  · exact .inl ⟨rfl, h⟩

end Sys2Proof.Machine
end

