-- ==== Sys2Proof/Laws/PerInstr.lean ====
section
/-! SUPPORT. One statement for every instruction as syntax: a host instruction is the bytes its opcode asks for
(R57, R171), and every other operation is an event on the pins (R24). -/

namespace Sys2Proof.Laws

/-- The encoding is an event, or an opcode with as many bytes as the opcode asks for. -/
def CodeBytes.Statement (i : Instr) : Prop :=
  match encode i with
  | .wire _ => True
  | .code bytes => ∃ op rest, bytes = op :: rest ∧ rest.length = if takesOperand op then 1 else 0

theorem CodeBytes.busRdC0 : CodeBytes.Statement .busRdC0 := trivial

theorem CodeBytes.busRdC1 : CodeBytes.Statement .busRdC1 := trivial

theorem CodeBytes.busRdC2 : CodeBytes.Statement .busRdC2 := trivial

theorem CodeBytes.busRdCtlNop : CodeBytes.Statement .busRdCtlNop := trivial

theorem CodeBytes.busWrC0 (d : Byte) : CodeBytes.Statement (.busWrC0 d) := trivial

theorem CodeBytes.busWrC1 (d : Byte) : CodeBytes.Statement (.busWrC1 d) := trivial

theorem CodeBytes.busWrC2 (d : Byte) : CodeBytes.Statement (.busWrC2 d) := trivial

theorem CodeBytes.busWrCtl (d : Byte) : CodeBytes.Statement (.busWrCtl d) := trivial

theorem CodeBytes.busNopDeselected (pins : BitVec 5) : CodeBytes.Statement (.busNopDeselected pins) := trivial

theorem CodeBytes.busNopIdle (pins : BitVec 5) : CodeBytes.Statement (.busNopIdle pins) := trivial

theorem CodeBytes.busRdwrBothLow (pins : BitVec 5) : CodeBytes.Statement (.busRdwrBothLow pins) := trivial

theorem CodeBytes.cwIllegalSc (w : Byte) : CodeBytes.Statement (.cwIllegalSc w) := trivial

theorem CodeBytes.cwLatch (n : CtrIdx) (x : BitVec 4) : CodeBytes.Statement (.cwLatch n x) := trivial

theorem CodeBytes.cwMode0 (n : CtrIdx) (rw : RW) (bcd : Bool) : CodeBytes.Statement (.cwMode0 n rw bcd) := trivial

theorem CodeBytes.cwMode1 (n : CtrIdx) (rw : RW) (bcd : Bool) : CodeBytes.Statement (.cwMode1 n rw bcd) := trivial

theorem CodeBytes.cwMode2 (n : CtrIdx) (rw : RW) (bcd : Bool) : CodeBytes.Statement (.cwMode2 n rw bcd) := trivial

theorem CodeBytes.cwMode3 (n : CtrIdx) (rw : RW) (bcd : Bool) : CodeBytes.Statement (.cwMode3 n rw bcd) := trivial

theorem CodeBytes.cwMode4 (n : CtrIdx) (rw : RW) (bcd : Bool) : CodeBytes.Statement (.cwMode4 n rw bcd) := trivial

theorem CodeBytes.cwMode5 (n : CtrIdx) (rw : RW) (bcd : Bool) : CodeBytes.Statement (.cwMode5 n rw bcd) := trivial

theorem CodeBytes.cwIllegalMode (w : Byte) : CodeBytes.Statement (.cwIllegalMode w) := trivial

theorem CodeBytes.cntWr (n : CtrIdx) (d : Byte) : CodeBytes.Statement (.cntWr n d) := trivial

theorem CodeBytes.cntRd (n : CtrIdx) : CodeBytes.Statement (.cntRd n) := trivial

theorem CodeBytes.clkPulse (n : CtrIdx) : CodeBytes.Statement (.clkPulse n) := trivial

theorem CodeBytes.gateSet (n : CtrIdx) (v : Bool) : CodeBytes.Statement (.gateSet n v) := trivial

theorem CodeBytes.mviA (d8 : Byte) : CodeBytes.Statement (.mviA d8) := ⟨_, _, rfl, rfl⟩

theorem CodeBytes.outA8 (a8 : Byte) : CodeBytes.Statement (.outA8 a8) := ⟨_, _, rfl, rfl⟩

theorem CodeBytes.inA8 (a8 : Byte) : CodeBytes.Statement (.inA8 a8) := ⟨_, _, rfl, rfl⟩

theorem CodeBytes.movEA : CodeBytes.Statement .movEA := ⟨_, _, rfl, rfl⟩

theorem CodeBytes.movDA : CodeBytes.Statement .movDA := ⟨_, _, rfl, rfl⟩

end Sys2Proof.Laws
end

