-- ==== Sys2Proof/Tests/Slice0.lean ====
section
/-! SUPPORT. The model's own tests. The expected values are the spec's: tables of `30_encoding.md`, and the vectors W, V
of `95_test_vectors.md` named in the comments. The theorems named witness_ show, for each statement with hypotheses, a
state and operands that meet all of them together. -/

namespace Sys2Proof.Tests

open Sys2Proof Sys2Proof.Machine

/-! ## WellFormed: an ill-formed term for each check -/

theorem test_illformed_deselected : WellFormed (.busNopDeselected 0b11110#5) = false := by decide

theorem test_illformed_idle : WellFormed (.busNopIdle 0b00010#5) = false := by decide

theorem test_illformed_both_low : WellFormed (.busRdwrBothLow 0b00001#5) = false := by decide

theorem test_illformed_illegal_sc : WellFormed (.cwIllegalSc 0xBF#8) = false := by decide

theorem test_illformed_illegal_mode_has_mode_5 : WellFormed (.cwIllegalMode 0xBB#8) = false := by decide

theorem test_illformed_illegal_mode_is_latch : WellFormed (.cwIllegalMode 0x8C#8) = false := by decide

theorem test_illformed_illegal_mode_has_sc_3 : WellFormed (.cwIllegalMode 0xFC#8) = false := by decide

/-! ## Decoding, each constructor from a word written out from the spec's encoding (R45, W1, V1, R57) -/

theorem test_decode_bus_reads :
    decode (.wire (.bus 0b00010#5 0xFF#8)) = .ok .busRdC0 ∧ decode (.wire (.bus 0b01010#5 0xFF#8)) = .ok .busRdC1 ∧
    decode (.wire (.bus 0b10010#5 0xFF#8)) = .ok .busRdC2 ∧ decode (.wire (.bus 0b11010#5 0xFF#8)) = .ok .busRdCtlNop :=
  ⟨rfl, rfl, rfl, rfl⟩

theorem test_decode_bus_writes :
    decode (.wire (.bus 0b00100#5 0x12#8)) = .ok (.busWrC0 0x12#8) ∧
    decode (.wire (.bus 0b01100#5 0x12#8)) = .ok (.busWrC1 0x12#8) ∧
    decode (.wire (.bus 0b10100#5 0x12#8)) = .ok (.busWrC2 0x12#8) ∧
    decode (.wire (.bus 0b11100#5 0x12#8)) = .ok (.busWrCtl 0x12#8) :=
  ⟨rfl, rfl, rfl, rfl⟩

theorem test_decode_bus_other :
    decode (.wire (.bus 0b11101#5 0x12#8)) = .ok (.busNopDeselected 0b11101#5) ∧
    decode (.wire (.bus 0b01110#5 0x12#8)) = .ok (.busNopIdle 0b01110#5) ∧
    decode (.wire (.bus 0b10000#5 0x12#8)) = .ok (.busRdwrBothLow 0b10000#5) :=
  ⟨rfl, rfl, rfl⟩

/-- V1, with modes 1, 4 and 5 from the words of W3. -/
theorem test_decode_control_words :
    decode (.wire (.cw 0x61#8)) = .ok (.cwMode0 .c1 .ms true) ∧
    decode (.wire (.cw 0xB3#8)) = .ok (.cwMode1 .c2 .lsms true) ∧
    decode (.wire (.cw 0x35#8)) = .ok (.cwMode2 .c0 .lsms true) ∧
    decode (.wire (.cw 0x76#8)) = .ok (.cwMode3 .c1 .lsms false) ∧
    decode (.wire (.cw 0xB9#8)) = .ok (.cwMode4 .c2 .lsms true) ∧
    decode (.wire (.cw 0xBA#8)) = .ok (.cwMode5 .c2 .lsms false) :=
  ⟨rfl, rfl, rfl, rfl, rfl, rfl⟩

/-- V1: in 8CH the bits of M are don't-cares, and in CFH SC is tested before RW. -/
theorem test_decode_other_control_words :
    decode (.wire (.cw 0x8C#8)) = .ok (.cwLatch .c2 0xC#4) ∧
    decode (.wire (.cw 0xCF#8)) = .ok (.cwIllegalSc 0xCF#8) ∧
    decode (.wire (.cw 0x1E#8)) = .ok (.cwIllegalMode 0x1E#8) :=
  ⟨rfl, rfl, rfl⟩

theorem test_decode_events :
    decode (.wire (.dataWr 0b01#2 0x50#8)) = .ok (.cntWr .c1 0x50#8) ∧
    decode (.wire (.dataRd 0b10#2)) = .ok (.cntRd .c2) ∧ decode (.wire (.clk 0b00#2)) = .ok (.clkPulse .c0) ∧
    decode (.wire (.gate 0b10#2 true)) = .ok (.gateSet .c2 true) ∧
    decode (.wire (.clk 0b11#2)) = .error .noSuchCounter :=
  ⟨rfl, rfl, rfl, rfl, rfl⟩

/-- R57, with the bytes of W3 and W20. -/
theorem test_decode_host :
    decode (.code [0x3E#8, 0xB1#8]) = .ok (.mviA 0xB1#8) ∧ decode (.code [0xD3#8, 0x83#8]) = .ok (.outA8 0x83#8) ∧
    decode (.code [0xDB#8, 0x82#8]) = .ok (.inA8 0x82#8) ∧ decode (.code [0x5F#8]) = .ok .movEA ∧
    decode (.code [0x57#8]) = .ok .movDA ∧ decode (.code [0x00#8]) = .error (.unknownOpcode 0x00#8) :=
  ⟨rfl, rfl, rfl, rfl, rfl, rfl⟩

/-- The `match` values of opcode_table.json, one row of each format that a number can name (log 14). -/
theorem test_table_words :
    decodeTableWord 8 0x12 = some .busRdC2 ∧ decodeTableWord 8 0x1C = some (.busWrCtl 0#8) ∧
    decodeTableWord 8 0xB0 = some (.cwMode0 .c2 .lsms false) ∧ decodeTableWord 8 0x80 = some (.cwLatch .c2 0#4) ∧
    decodeTableWord 16 0x3E = some (.mviA 0#8) ∧ decodeTableWord 16 0x82DB = some (.inA8 0x82#8) ∧
    decodeTableWord 8 0x5F = some .movEA ∧ decodeTableWord 8 0x08 = some (.gateSet .c0 false) := by
  decide

/-- The environment's selectors (R58). -/
theorem test_pin_rows :
    pinRow (pinSelector true .m3) = some (true, .m3) ∧ pinRow 0b0101#4 = some (false, .m5) ∧
    pinRow 0b1110#4 = none := by
  decide

/-! ## Helpers -/

/-- A counter set up at power-on with its gate at `g`. -/
def fresh (g : Bool) (m : Mode) (rw : RW) (bcd : Bool) : Counter := setUp rw m bcd (Counter.powerOn g)

/-- The same, counting from `w`. -/
def counting (g : Bool) (m : Mode) (bcd : Bool) (w : Word) (o : OutPin) : Counter :=
  { fresh g m .lsms bcd with crl := some (lsByte w), crm := some (msByte w), bc := some w, run := true, out := o }

/-- The same, with the half-way mark. -/
def square (g : Bool) (w : Word) (half : Nat) : Counter := { counting g .m3 true w .hi with half := half }

/-- The same, stopped at the terminal count. -/
def stopped (m : Mode) (w : Word) : Counter := { counting true m false w .hi with bc := some 0#16, run := false }

/-- The LS byte of a load has been written. -/
def halfLoaded (c : Counter) (lo : Byte) : Counter := { c with crl := some lo, wph := .ms }

/-- The machine after power-on, with Counter2 as given. -/
def dev (c : Counter) : State := State.reset.setCtr .c2 c

/-- The same, with a captured count of Counter2. -/
def devLatch (c : Counter) (l : Latched) : State := { dev c with latch := some l }

/-- The machine on another board. -/
def onBoard (p : SingleByteOther) (q : Mode0Reload) (s : State) : State :=
  { s with board := { s.board with singleByteOther := p, mode0Reload := q } }

/-- Bytes and PC of the host. -/
def prog (m : Memory) (s : State) : State := { s with mem := m }

/-- One field of Counter2 after one instruction. -/
def look {α : Type} (f : Counter → α) (i : Instr) (c : Counter) : Option α :=
  (nextState (exec i (dev c))).map fun t => f (t.ctr .c2)

/-! ## One step of each instruction (W3 to W21, V2 to V7) -/

theorem test_cw_mode0_output : look (·.out) (.cwMode0 .c2 .lsms true) (Counter.powerOn true) = some .lo := by decide

theorem test_cw_mode1_output : look (·.out) (.cwMode1 .c2 .lsms true) (Counter.powerOn true) = some .hi := by decide

theorem test_cw_mode2_stops : look (·.run) (.cwMode2 .c2 .lsms true) (counting true .m2 true 9#16 .lo) = some false := by
  decide

theorem test_cw_mode3_mode : look (·.mode) (.cwMode3 .c2 .lsms true) (Counter.powerOn true) = some .m3 := by decide

theorem test_cw_mode4_empties : look (·.crl) (.cwMode4 .c2 .lsms true) (stopped .m4 5#16) = some none := by decide

theorem test_cw_mode5_rw : look (·.rw) (.cwMode5 .c2 .ms true) (Counter.powerOn true) = some .ms := by decide

/-- V4: a mode word in the middle of a load. -/
theorem test_mode_word_mid_sequence :
    refusalOf (exec (.busWrCtl 0xB1#8) (dev (halfLoaded (fresh true .m0 .lsms true) 0x12#8))) = some .midSequence := by
  decide

/-- W21: the captured count. -/
theorem test_cw_latch :
    (nextState (exec (.cwLatch .c2 0#4) (dev (counting true .m0 false 0x3400#16 .lo)))).map (·.latch) =
      some (some { counter := .c2, value := some 0x3400#16, left := .two }) := by
  decide

/-- V4: fresh device. -/
theorem test_cw_latch_unconfigured : refusalOf (exec (.cwLatch .c2 0#4) State.reset) = some .unconfigured := by decide

theorem test_cw_illegal_sc : refusalOf (exec (.cwIllegalSc 0xCF#8) State.reset) = some .illegalSC := by decide

theorem test_cw_illegal_mode : refusalOf (exec (.busWrCtl 0x3F#8) State.reset) = some .illegalMode := by decide

/-- W3, mode 0: the second byte starts the count. -/
theorem test_cnt_wr_mode0 :
    look (·.bc) (.cntWr .c2 0x34#8) (halfLoaded (fresh true .m0 .lsms true) 0x12#8) = some (some 0x3412#16) := by
  decide

/-- W3, mode 3: HALF = 1706. -/
theorem test_cnt_wr_mode3_half :
    look (·.half) (.busWrC2 0x34#8) (halfLoaded (fresh true .m3 .lsms true) 0x12#8) = some 1706 := by
  decide

/-- V3: refuse `BadBCD`. -/
theorem test_cnt_wr_bad_bcd :
    refusalOf (exec (.cntWr .c2 0x34#8) (dev (halfLoaded (fresh true .m0 .lsms true) 0x1A#8))) = some .badBCD := by
  decide

/-- W11: a load during the count leaves the BCounter of mode 2. -/
theorem test_cnt_wr_mode2_running :
    look (·.bc) (.cntWr .c2 0x52#8) (halfLoaded (counting true .m2 true 0x1234#16 .hi) 0x34#8) =
      some (some 0x1234#16) := by
  decide

/-- W20: the LS byte of 3400H. -/
theorem test_cnt_rd :
    (nextState (exec (.cntRd .c2) (dev (counting true .m0 false 0x3400#16 .lo)))).map (·.dataPins) =
      some (.driven 0x00#8) := by
  decide

/-- W20: the second read, of 33FFH. -/
theorem test_bus_rd_c2 :
    (nextState (exec .busRdC2 (dev { counting true .m0 false 0x33FF#16 .lo with rph := .ms }))).map (·.dataPins) =
      some (.driven 0x33#8) := by
  decide

theorem test_bus_rd_c0 : refusalOf (exec .busRdC0 State.reset) = some .unconfigured := by decide

theorem test_bus_rd_c1 :
    (nextState (exec .busRdC1 (State.reset.setCtr .c1 { fresh true .m0 .ls false with bc := some 0x004D#16 }))).map
      (·.dataPins) = some (.driven 0x4D#8) := by
  decide

theorem test_bus_rd_ctl : (nextState (exec .busRdCtlNop State.reset)).map (·.dataPins) = some .z := by decide

/-- V3: a one-byte load of Counter1, RW = 10, `SINGLE_BYTE_OTHER` = zero. -/
theorem test_bus_wr_c1 :
    (nextState (exec (.busWrC1 0x12#8) (State.reset.setCtr .c1 (fresh true .m0 .ms false)))).map
      (fun t => (t.ctr .c1).bc) = some (some 0x1200#16) := by
  decide

theorem test_bus_wr_c0 : refusalOf (exec (.busWrC0 0x12#8) State.reset) = some .unconfigured := by decide

theorem test_bus_nops :
    nextState (exec (.busNopDeselected 1#5) State.reset) = some State.reset ∧
    nextState (exec (.busNopIdle 6#5) State.reset) = some State.reset := by
  decide

theorem test_bus_both_low : refusalOf (exec (.busRdwrBothLow 0#5) State.reset) = some .bothLow := by decide

/-- V2: 3400H in decimal becomes 3399H. -/
theorem test_clk_decimal : look (·.bc) (.clkPulse .c2) (counting true .m1 true 0x3400#16 .lo) = some (some 0x3399#16) := by
  decide

/-- V2: 3400H in binary becomes 33FFH. -/
theorem test_clk_binary : look (·.bc) (.clkPulse .c2) (counting true .m0 false 0x3400#16 .lo) = some (some 0x33FF#16) := by
  decide

/-- W10: the last pulse of a period of mode 2 loads the BCounter again. -/
theorem test_clk_mode2_reload :
    look (fun c => (c.bc, c.out, c.run)) (.clkPulse .c2)
        { counting true .m2 true 0x1234#16 .lo with bc := some 1#16 } =
      some (some 0x1234#16, .hi, true) := by
  decide

/-- V7: the terminal count between the two bytes of a load. -/
theorem test_clk_mode2_not_loaded :
    refusalOf (exec (.clkPulse .c2)
      (dev (halfLoaded { counting true .m2 false 2#16 .lo with bc := some 1#16 } 9#8))) = some .notLoaded := by
  decide

/-- W15: pulse 1,706 of a count 3412. -/
theorem test_clk_mode3_low :
    look (·.out) (.clkPulse .c2) { square true 0x3412#16 1706 with bc := some 0x1707#16 } = some .lo := by
  decide

/-- W16: the strobe begins. -/
theorem test_clk_mode4_strobe :
    look (·.out) (.clkPulse .c2) { counting true .m4 true 0x1234#16 .hi with bc := some 2#16 } = some .lo := by
  decide

/-- W8: the re-trigger of mode 1. -/
theorem test_gate_mode1 :
    look (fun c => (c.bc, c.out)) (.gateSet .c2 true)
        { counting false .m1 true 0x3412#16 .lo with bc := some 0x2412#16 } =
      some (some 0x3412#16, .lo) := by
  decide

/-- V6: the trigger of a counter half loaded. -/
theorem test_gate_not_loaded :
    refusalOf (exec (.gateSet .c2 true) (dev (halfLoaded (fresh false .m1 .lsms true) 0x12#8))) = some .notLoaded := by
  decide

theorem test_mvi : (nextState (exec (.mviA 0xB1#8) State.reset)).map (·.host) = some ⟨0xB1#8, 0#8, 0#8, 2#16⟩ := by
  decide

/-- R173: `OUT 83H` with A = B0H. -/
theorem test_out_control :
    (nextState (exec (.outA8 0x83#8) (State.setA State.reset 0xB0#8))).map (fun t => ((t.ctr .c2).cfg, t.host.pc)) =
      some (true, 2#16) := by
  decide

/-- W2: a port of another device. -/
theorem test_out_elsewhere :
    (nextState (exec (.outA8 0xCB#8) (State.setA State.reset 0xB0#8))).map (fun t => (t.ctr .c2).cfg) = some false := by
  decide

/-- W20: `IN 82H`. -/
theorem test_in :
    (nextState (exec (.inA8 0x82#8) (dev { counting true .m0 false 0x33FF#16 .lo with rph := .ms }))).map (·.host.a) =
      some 0x33#8 := by
  decide

theorem test_mov_e :
    (nextState (exec .movEA (State.setA State.reset 0x34#8))).map (·.host) = some ⟨0x34#8, 0#8, 0x34#8, 1#16⟩ := by
  decide

theorem test_mov_d :
    (nextState (exec .movDA (State.setA State.reset 0x34#8))).map (·.host) = some ⟨0x34#8, 0x34#8, 0#8, 1#16⟩ := by
  decide

/-- V2, the other rows. -/
theorem test_dec1 :
    dec1 0x1000#16 true = some 0x0999#16 ∧ dec1 0x1000#16 false = some 0x0FFF#16 ∧ dec1 0xFFFF#16 false = some 0xFFFE#16 ∧
    dec1 0x9999#16 true = some 0x9998#16 ∧ dec1 0#16 true = none ∧ val 0x341A#16 true = none ∧
    enc 1706 true = 0x1706#16 ∧ enc 1706 false = 0x06AA#16 := by
  decide

/-- The step runs the placed number: `MVI A` and a mode word. -/
theorem test_placed_words :
    (nextState (step (State.reset.withFetchWord 16 0xB13E))).map (·.host.a) = some 0xB1#8 ∧
    (nextState (step (State.reset.withFetchWord 8 0x50))).map (fun t => (t.ctr .c1).cfg) = some true := by
  decide

/-- R195: the table of interrupt pins. -/
theorem test_irq_table :
    irqVector .rst75 = some 0x003C#16 ∧ irqVector .rst55 = some 0x002C#16 ∧ irqNeedsEnable .trap = false ∧
    irqMaskableBySim .intr = false := by
  decide

/-- W4: 3,412 pulses at 1 MHz are 3,412 µs. -/
theorem test_pulse_time : pulseTimeNs Board.default .c2 3412 = 3412000 := by
  norm_num [pulseTimeNs, clkPeriodNs, Board.default, ClkPeriod.oneMicrosecond]

/-- W2, R199: on the kit `OUT CBH` reaches the control port and `OUT 83H` does not reach the device. -/
theorem test_kit_ports :
    selects8253 (Board.onKit Board.default) 0xCB#8 = true ∧ devicePort 0xCB#8 = 3#2 ∧
    selects8253 (Board.onKit Board.default) 0x83#8 = false := by
  decide

/-- R221: the period of Clk1 on the kit is 2/3 µs (1.5 MHz), and that of a 3 MHz clock is below the limit. -/
theorem test_kit_clock :
    clkPeriodNs (Board.onKit Board.default) .c1 = 2000 / 3 ∧ clkWithinLimit (1000 / 3) = false := by
  refine ⟨?_, by norm_num [clkWithinLimit]⟩
  exact (Rat.num_div_den ClkPeriod.kitClk1.ns).symm

/-! ## Witnesses: states and operands that meet the hypotheses of the statements, clause by clause -/

theorem witness_DecodeOfEncode :
    WellFormed (.busNopIdle 0b00110#5) = true ∧ WellFormed (.cwIllegalMode 0x1C#8) = true ∧
    WellFormed (.cwIllegalSc 0xC0#8) = true := by
  decide

/-- Accepted and rejected host bytes, events for a counter and for none, and a step that meets a rejected byte. -/
theorem witness_EncodeOfDecode :
    decode (.code [0xDB#8, 0x82#8]) = .ok (.inA8 0x82#8) ∧ (∀ op ∈ [0x3E#8, 0xD3#8, 0xDB#8, 0x5F#8, 0x57#8], 0#8 ≠ op) ∧
    Wire.gate 3#2 true ∈ [Wire.dataWr 3#2 0#8, .dataRd 3#2, .clk 3#2, .gate 3#2 true] ∧
    Wire.clk (ctrBits .c2) ∈
      [Wire.dataWr (ctrBits .c2) 0#8, .dataRd (ctrBits .c2), .clk (ctrBits .c2), .gate (ctrBits .c2) true] ∧
    (nextEncoding (prog [(0, 0#8)] State.reset) = .ok (.code [0#8]) ∧
      decode (.code [0#8]) = .error (.unknownOpcode 0#8)) :=
  ⟨rfl, by decide, by decide, by decide, rfl, rfl⟩

theorem witness_ControlWordFields :
    (0xC0#8).toNat / 64 = 3 ∧ ((0x8F#8).toNat / 64 = (ctrBits .c2).toNat ∧ (0x8F#8).toNat / 16 % 4 = 0) ∧
    ((0xBC#8).toNat / 64 = (ctrBits .c2).toNat ∧ (0xBC#8).toNat / 16 % 4 = (rwBits .lsms).toNat ∧
      6 ≤ (0xBC#8).toNat / 2 % 8) ∧
    ((0xBB#8).toNat / 64 = (ctrBits .c2).toNat ∧ (0xBB#8).toNat / 16 % 4 = (rwBits .lsms).toNat ∧
      (0xBB#8).toNat / 2 % 8 = (modeBits .m5).toNat) := by
  decide

theorem witness_StepRunsTheEvent :
    ({ State.reset with inputs := [.event (.clk 2#2)] } : State).inputs = .event (.clk 2#2) :: [] ∧
    decode (.wire (.clk 2#2)) = .ok (.clkPulse .c2) :=
  ⟨rfl, rfl⟩

theorem witness_StepRunsTheHostInstruction :
    ((prog [(0, 0x5F#8)] State.reset).inputs = [] ∧
      Memory.read (prog [(0, 0x5F#8)] State.reset).mem (0#16).toNat = some 0x5F#8 ∧
      takesOperand 0x5F#8 = false ∧ decode (.code [0x5F#8]) = .ok .movEA) ∧
    (({ prog [(0, 0x3E#8), (1, 0xB1#8)] State.reset with inputs := [.host] } : State).inputs = .host :: [] ∧
      Memory.read [(0, 0x3E#8), (1, 0xB1#8)] (0#16).toNat = some 0x3E#8 ∧ takesOperand 0x3E#8 = true ∧
      Memory.read [(0, 0x3E#8), (1, 0xB1#8)] (pcNext 0#16).toNat = some 0xB1#8 ∧
      decode (.code [0x3E#8, 0xB1#8]) = .ok (.mviA 0xB1#8)) :=
  ⟨⟨rfl, rfl, rfl, rfl⟩, rfl, rfl, rfl, rfl, rfl⟩

theorem witness_PlacedInstructionRuns :
    WellFormed (.outA8 0x83#8) = true ∧ State.reset.host.pc ≠ 0xFFFF#16 ∧
    WellFormed .movEA = true ∧ ({ State.reset.host with pc := 0xFFFE#16 } : HostRegs).pc ≠ 0xFFFF#16 := by
  decide

theorem witness_BusOperationsArePortOperations : decode (.wire (.cw 0x35#8)) = .ok (.cwMode2 .c0 .lsms true) := rfl

/-- A counter set up before, and one never set up; both ways of writing the word. -/
theorem witness_ModeSettingSetsUpTheCounter :
    (((dev (stopped .m0 5#16)).ctr .c2).cfg = true ∧
      (((dev (stopped .m0 5#16)).ctr .c2).wph = .ls ∧ ((dev (stopped .m0 5#16)).ctr .c2).rph = .ls ∧
        latchIsOf (dev (stopped .m0 5#16)).latch .c2 = false) ∧
      Instr.cwMode1 .c2 .lsms true = modeInstr .m1 .c2 .lsms true) ∧
    ((State.reset.ctr .c2).cfg = false ∧ Instr.busWrCtl 0xB1#8 = .busWrCtl (encodeModeWord .c2 .lsms .m0 true)) :=
  ⟨⟨rfl, ⟨rfl, rfl, rfl⟩, rfl⟩, rfl, rfl⟩

/-- A captured count of Counter2 with two bytes left. -/
def waiting : Latched := { counter := .c2, value := some 0x3400#16, left := .two }

theorem witness_ModeSettingRefused :
    (((dev (halfLoaded (fresh true .m0 .lsms true) 0x12#8)).ctr .c2).cfg = true ∧
      ((dev (halfLoaded (fresh true .m0 .lsms true) 0x12#8)).ctr .c2).wph = .ms) ∧
    (((devLatch (fresh true .m0 .lsms true) waiting).ctr .c2).cfg = true ∧
      ((devLatch (fresh true .m0 .lsms true) waiting).ctr .c2).wph = .ls ∧
      ((devLatch (fresh true .m0 .lsms true) waiting).ctr .c2).rph = .ls ∧
      latchIsOf (devLatch (fresh true .m0 .lsms true) waiting).latch .c2 = true) := by
  decide

theorem witness_ReadOnTheFlyCaptures :
    ((dev (counting true .m0 false 0x3400#16 .lo)).ctr .c2).cfg = true ∧
    (dev (counting true .m0 false 0x3400#16 .lo)).latch = none ∧
    ((dev (counting true .m0 false 0x3400#16 .lo)).ctr .c2).wph = .ls ∧
    ((dev (counting true .m0 false 0x3400#16 .lo)).ctr .c2).rph = .ls := by
  decide

theorem witness_ReadOnTheFlyRefused :
    (State.reset.ctr .c2).cfg = false ∧
    (((devLatch (fresh true .m0 .lsms true) waiting).ctr .c2).cfg = true ∧
      (devLatch (fresh true .m0 .lsms true) waiting).latch ≠ none) ∧
    (((dev (halfLoaded (fresh true .m0 .lsms true) 0x12#8)).ctr .c2).cfg = true ∧
      (dev (halfLoaded (fresh true .m0 .lsms true) 0x12#8)).latch = none ∧
      ((dev (halfLoaded (fresh true .m0 .lsms true) 0x12#8)).ctr .c2).wph = .ms) := by
  decide

/-- The least and the greatest illegal words of each kind. -/
theorem witness_StopsOnEveryPath :
    192 ≤ (0xC0#8).toNat ∧ 192 ≤ (0xFF#8).toNat ∧
    ((0x1C#8).toNat < 192 ∧ (0x1C#8).toNat / 16 % 4 ≠ 0 ∧ 6 ≤ (0x1C#8).toNat / 2 % 8) ∧
    ((0xBF#8).toNat < 192 ∧ (0xBF#8).toNat / 16 % 4 ≠ 0 ∧ 6 ≤ (0xBF#8).toNat / 2 % 8) := by
  decide

theorem witness_FirstByteOfALoad :
    WritesPort (.busWrC2 0x12#8) .c2 0x12#8 ∧ WriteAdmitted (dev (fresh true .m0 .lsms true)) .c2 ∧
    ((dev (fresh true .m0 .lsms true)).ctr .c2).rw = .lsms ∧ ((dev (fresh true .m0 .lsms true)).ctr .c2).wph = .ls :=
  ⟨.inr rfl, ⟨rfl, rfl, rfl⟩, rfl, rfl⟩

/-- The first load (the count 1), and a load during the count. -/
theorem witness_Mode0LoadStartsTheCount :
    (WritesPort (.cntWr .c2 0#8) .c2 0#8 ∧ WriteAdmitted (dev (halfLoaded (fresh true .m0 .lsms true) 1#8)) .c2 ∧
      ∃ e, completedBy Board.default 0#8 (halfLoaded (fresh true .m0 .lsms true) 1#8) = some e ∧
        loadedCount e = some 1#16 ∧ val 1#16 e.bcd = some (0 + 1) ∧ e.mode = .m0 ∧ e.bc = none) ∧
    (WriteAdmitted (dev (halfLoaded (counting true .m0 true 0x2412#16 .lo) 0x34#8)) .c2 ∧
      ∃ e, completedBy Board.default 0x52#8 (halfLoaded (counting true .m0 true 0x2412#16 .lo) 0x34#8) = some e ∧
        loadedCount e = some 0x5234#16 ∧ val 0x5234#16 e.bcd = some (5233 + 1) ∧ e.mode = .m0 ∧ e.run = true) :=
  ⟨⟨.inl rfl, ⟨rfl, rfl, rfl⟩, _, rfl, rfl, rfl, rfl, rfl⟩, ⟨rfl, rfl, rfl⟩, _, rfl, rfl, rfl, rfl, rfl⟩

theorem witness_Mode0ReloadAfterTerminalCount :
    WritesPort (.cntWr .c2 0#8) .c2 0#8 ∧ WriteAdmitted (dev (halfLoaded (stopped .m0 1#16) 5#8)) .c2 ∧
    ∃ e, completedBy Board.default 0#8 (halfLoaded (stopped .m0 1#16) 5#8) = some e ∧
      loadedCount e = some 5#16 ∧ val 5#16 e.bcd = some (4 + 1) ∧ e.mode = .m0 ∧ e.bc ≠ none ∧ e.run = false :=
  ⟨.inl rfl, ⟨rfl, rfl, rfl⟩, _, rfl, rfl, rfl, rfl, by decide, rfl⟩

/-- Mode 1 with the count 1, mode 5 with the count 2. -/
theorem witness_LoadInModes1And5 :
    WritesPort (.cntWr .c2 0#8) .c2 0#8 ∧
    (WriteAdmitted (dev (halfLoaded (fresh true .m1 .lsms true) 1#8)) .c2 ∧
      ∃ e, completedBy Board.default 0#8 (halfLoaded (fresh true .m1 .lsms true) 1#8) = some e ∧
        loadedCount e = some 1#16 ∧ val 1#16 e.bcd = some (0 + 1) ∧ e.mode = .m1) ∧
    (WriteAdmitted (dev (halfLoaded (fresh true .m5 .lsms true) 2#8)) .c2 ∧
      ∃ e, completedBy Board.default 0#8 (halfLoaded (fresh true .m5 .lsms true) 2#8) = some e ∧
        loadedCount e = some 2#16 ∧ val 2#16 e.bcd = some (1 + 1) ∧ e.mode = .m5 ∧ 1 ≤ 1) :=
  ⟨.inl rfl, ⟨⟨rfl, rfl, rfl⟩, _, rfl, rfl, rfl, rfl⟩, ⟨rfl, rfl, rfl⟩, _, rfl, rfl, rfl, rfl, Nat.le_refl 1⟩

/-- Mode 3 starting, with the count 2; mode 2 with the gate at 0; mode 2 running. -/
theorem witness_LoadInModes2And3 :
    WritesPort (.cntWr .c2 0#8) .c2 0#8 ∧
    (WriteAdmitted (dev (halfLoaded (fresh true .m3 .lsms true) 2#8)) .c2 ∧
      ∃ e, completedBy Board.default 0#8 (halfLoaded (fresh true .m3 .lsms true) 2#8) = some e ∧
        loadedCount e = some 2#16 ∧ val 2#16 e.bcd = some (0 + 2) ∧ e.mode = .m3 ∧ e.gate = true ∧ e.run = false) ∧
    (WriteAdmitted (dev (halfLoaded (fresh false .m2 .lsms true) 2#8)) .c2 ∧
      ∃ e, completedBy Board.default 0#8 (halfLoaded (fresh false .m2 .lsms true) 2#8) = some e ∧
        loadedCount e = some 2#16 ∧ val 2#16 e.bcd = some (0 + 2) ∧ e.mode = .m2 ∧ e.gate = false) ∧
    (WriteAdmitted (dev (halfLoaded (counting true .m2 true 0x1234#16 .hi) 2#8)) .c2 ∧
      ∃ e, completedBy Board.default 0#8 (halfLoaded (counting true .m2 true 0x1234#16 .hi) 2#8) = some e ∧
        loadedCount e = some 2#16 ∧ val 2#16 e.bcd = some (0 + 2) ∧ e.mode = .m2 ∧ e.run = true) :=
  ⟨.inl rfl, ⟨⟨rfl, rfl, rfl⟩, _, rfl, rfl, rfl, rfl, rfl, rfl⟩, ⟨⟨rfl, rfl, rfl⟩, _, rfl, rfl, rfl, rfl, rfl⟩,
    ⟨rfl, rfl, rfl⟩, _, rfl, rfl, rfl, rfl, rfl⟩

theorem witness_Mode4LoadStartsTheCount :
    WritesPort (.cntWr .c2 0#8) .c2 0#8 ∧ WriteAdmitted (dev (halfLoaded (fresh false .m4 .lsms true) 2#8)) .c2 ∧
    ∃ e, completedBy Board.default 0#8 (halfLoaded (fresh false .m4 .lsms true) 2#8) = some e ∧
      loadedCount e = some 2#16 ∧ val 2#16 e.bcd = some (0 + 2) ∧ e.mode = .m4 :=
  ⟨.inl rfl, ⟨rfl, rfl, rfl⟩, _, rfl, rfl, rfl, rfl⟩

theorem witness_IllegalCountsRefused :
    WritesPort (.cntWr .c2 0#8) .c2 0#8 ∧
    (WriteAdmitted (dev (halfLoaded (fresh true .m0 .lsms true) 0x0A#8)) .c2 ∧
      ∃ e, completedBy Board.default 0#8 (halfLoaded (fresh true .m0 .lsms true) 0x0A#8) = some e ∧
        loadedCount e = some 0x000A#16 ∧ val 0x000A#16 e.bcd = none) ∧
    (WriteAdmitted (dev (halfLoaded (fresh true .m0 .lsms true) 0#8)) .c2 ∧
      ∃ e, completedBy Board.default 0#8 (halfLoaded (fresh true .m0 .lsms true) 0#8) = some e ∧
        loadedCount e = some 0#16 ∧ val 0#16 e.bcd = some 0) ∧
    (WriteAdmitted (dev (halfLoaded (fresh true .m2 .lsms true) 1#8)) .c2 ∧
      ∃ e, completedBy Board.default 0#8 (halfLoaded (fresh true .m2 .lsms true) 1#8) = some e ∧
        loadedCount e = some 1#16 ∧ val 1#16 e.bcd = some 1 ∧ e.mode ≠ .m0 ∧ e.mode ≠ .m1) :=
  ⟨.inl rfl, ⟨⟨rfl, rfl, rfl⟩, _, rfl, rfl, rfl⟩, ⟨⟨rfl, rfl, rfl⟩, _, rfl, rfl, rfl⟩, ⟨rfl, rfl, rfl⟩, _, rfl, rfl,
    rfl, by decide, by decide⟩

/-- One byte in each format, on a board that gives one-byte loads a meaning. -/
def oneByte (rw : RW) : State := dev (fresh true .m0 rw false)

/-- The same counter about to take the last byte of the two-byte load, its first byte `lo`. -/
def twoByte (rw : RW) (lo : Byte) : State :=
  (oneByte rw).setCtr .c2 { (oneByte rw).ctr .c2 with rw := .lsms, wph := .ms, crl := some lo }

/-- Each format, in a state whose two-byte load the other clause speaks of has a next state, or is refused (the count
0, `ZeroCount`). -/
theorem witness_OneByteLoads :
    (WritesPort (.cntWr .c2 0x50#8) .c2 0x50#8 ∧ WriteAdmitted (onBoard .refuse .free (oneByte .ls)) .c2 ∧
      ((onBoard .refuse .free (oneByte .ls)).ctr .c2).rw ≠ .lsms ∧
      (onBoard .refuse .free (oneByte .ls)).board.singleByteOther = .refuse) ∧
    (WriteAdmitted (oneByte .ls) .c2 ∧ (oneByte .ls).board.singleByteOther = .zero ∧
      ((oneByte .ls).ctr .c2).wph = .ls ∧ ((oneByte .ls).ctr .c2).rw = .ls ∧
      (∃ t, exec (.cntWr .c2 0#8) (twoByte .ls 0x50#8) = .next t) ∧
      exec (.cntWr .c2 0#8) (twoByte .ls 0#8) = .refused .zeroCount) ∧
    (WriteAdmitted (oneByte .ms) .c2 ∧ (oneByte .ms).board.singleByteOther = .zero ∧
      ((oneByte .ms).ctr .c2).wph = .ls ∧ ((oneByte .ms).ctr .c2).rw = .ms ∧
      (∃ t, exec (.cntWr .c2 0x50#8) (twoByte .ms 0#8) = .next t) ∧
      exec (.cntWr .c2 0#8) (twoByte .ms 0#8) = .refused .zeroCount) :=
  ⟨⟨.inl rfl, ⟨rfl, rfl, rfl⟩, by decide, rfl⟩, ⟨⟨rfl, rfl, rfl⟩, rfl, rfl, rfl, ⟨_, rfl⟩, rfl⟩, ⟨rfl, rfl, rfl⟩, rfl, rfl,
    rfl, ⟨_, rfl⟩, rfl⟩

theorem witness_WriteRefused :
    WritesPort (.busWrC2 0#8) .c2 0#8 ∧ (State.reset.ctr .c2).cfg = false ∧
    (((dev { fresh true .m0 .lsms true with rph := .ms }).ctr .c2).cfg = true ∧
      ((dev { fresh true .m0 .lsms true with rph := .ms }).ctr .c2).rph = .ms) ∧
    (((devLatch (fresh true .m0 .lsms true) { waiting with left := .one }).ctr .c2).cfg = true ∧
      latchHalfRead (devLatch (fresh true .m0 .lsms true) { waiting with left := .one }).latch .c2 = true) :=
  ⟨.inr rfl, rfl, ⟨rfl, rfl⟩, rfl, rfl⟩

theorem witness_DirectReadDrivesTheCount :
    ReadsPort (.cntRd .c2) .c2 ∧ ReadAdmitted (dev (counting true .m0 false 0x3400#16 .lo)) .c2 ∧
    latchIsOf (dev (counting true .m0 false 0x3400#16 .lo)).latch .c2 = false ∧
    ((dev (counting true .m0 false 0x3400#16 .lo)).ctr .c2).bc = some 0x3400#16 :=
  ⟨.inl rfl, ⟨rfl, rfl⟩, rfl, rfl⟩

theorem witness_UnloadedReadDrivesAFreeByte :
    ReadsPort .busRdC2 .c2 ∧ ReadAdmitted (dev (fresh true .m0 .lsms true)) .c2 ∧
    latchIsOf (dev (fresh true .m0 .lsms true)).latch .c2 = false ∧
    ((dev (fresh true .m0 .lsms true)).ctr .c2).bc = none :=
  ⟨.inr rfl, ⟨rfl, rfl⟩, rfl, rfl⟩

theorem witness_LatchedReadDrivesTheCapturedBytes :
    ReadsPort .busRdC2 .c2 ∧
    (ReadAdmitted (devLatch (fresh true .m0 .ls false) waiting) .c2 ∧
      (devLatch (fresh true .m0 .ls false) waiting).latch =
        some { counter := .c2, value := some 0x3400#16, left := .two }) ∧
    (ReadAdmitted (devLatch (fresh true .m0 .ls false) { waiting with left := .one }) .c2 ∧
      (devLatch (fresh true .m0 .ls false) { waiting with left := .one }).latch =
        some { counter := .c2, value := some 0x3400#16, left := .one }) :=
  ⟨.inr rfl, ⟨⟨rfl, rfl⟩, rfl⟩, ⟨rfl, rfl⟩, rfl⟩

theorem witness_ReadRefused :
    ReadsPort .busRdC2 .c2 ∧ (State.reset.ctr .c2).cfg = false ∧
    ((dev (halfLoaded (fresh true .m0 .lsms true) 0x12#8)).ctr .c2).cfg = true ∧
    ((dev (halfLoaded (fresh true .m0 .lsms true) 0x12#8)).ctr .c2).wph = .ms :=
  ⟨.inr rfl, rfl, rfl, rfl⟩

/-- W21, with one pulse before each read. -/
theorem witness_ReadOnTheFlyReturnsTheCapturedCount :
    ∃ s1 s2 s3 s4 : State, ((dev (counting true .m0 false 0x3400#16 .lo)).ctr .c2).bc = some 0x3400#16 ∧
      exec (.cwLatch .c2 0#4) (dev (counting true .m0 false 0x3400#16 .lo)) = .next s1 ∧
      quietFor .c2 [.clkPulse .c2] s1 ∧ execAll [.clkPulse .c2] s1 = .next s2 ∧ exec (.cntRd .c2) s2 = .next s3 ∧
      quietFor .c2 [.clkPulse .c2] s3 ∧ execAll [.clkPulse .c2] s3 = .next s4 :=
  ⟨_, _, _, _, rfl, rfl, ⟨nofun, fun _ _ => trivial⟩, rfl, rfl, ⟨nofun, fun _ _ => trivial⟩, rfl⟩

/-- W20: the counter after `W(3, B0H)`, `W(2, 00H)`, `W(2, 34H)`. -/
theorem witness_DirectReadHazard :
    (dev (counting true .m0 false 0x3400#16 .lo)).latch = none ∧
    ∀ c ∈ [(dev (counting true .m0 false 0x3400#16 .lo)).ctr .c2], c.cfg = true ∧ c.rw = .lsms ∧ c.wph = .ls ∧
      c.rph = .ls ∧ c.mode = .m0 ∧ c.bcd = false ∧ c.gate = true ∧ c.run = true ∧ c.bc = some 0x3400#16 := by
  decide

theorem witness_DecrementIsByOne :
    val 0x9999#16 true = some 9999 ∧ 9999 ≤ (if true then 9999 else 65535) ∧
    65535 ≤ (if false then 9999 else 65535) ∧ val 0x0001#16 true = some (0 + 1) ∧
    dec1 0x1000#16 true = some 0x0999#16 := by
  decide

theorem witness_PulseWithoutEffect :
    (State.reset.ctr .c2).cfg = false ∧ ((dev (stopped .m0 5#16)).ctr .c2).run = false ∧
    (((dev (counting false .m4 true 5#16 .hi)).ctr .c2).gate = false ∧
      ((dev (counting false .m4 true 5#16 .hi)).ctr .c2).mode = .m4) := by
  decide

/-- Mode 0 with the gate at 1 and mode 1 with the gate at 0, at the count 1. -/
theorem witness_PulseInModes0And1 :
    ((fresh true .m0 .lsms true).cfg = true ∧ (counting true .m0 true 1#16 .lo).run = true ∧
      (counting true .m0 true 1#16 .lo).bc = some 1#16 ∧ val 1#16 true = some (0 + 1) ∧
      (counting true .m0 true 1#16 .lo).mode = .m0 ∧ (counting true .m0 true 1#16 .lo).gate = true) ∧
    ((counting false .m1 true 1#16 .lo).cfg = true ∧ (counting false .m1 true 1#16 .lo).run = true ∧
      (counting false .m1 true 1#16 .lo).bc = some 1#16 ∧ (counting false .m1 true 1#16 .lo).mode = .m1) := by
  decide

/-- The four clauses: above the terminal count; gate 0; gate 1 and loaded; gate 1 and half loaded. -/
theorem witness_PulseInMode2 :
    (∀ c ∈ [counting true .m2 true 2#16 .hi, counting false .m2 true 1#16 .lo, counting true .m2 true 1#16 .lo,
        halfLoaded (counting true .m2 true 1#16 .lo) 9#8],
      c.cfg = true ∧ c.run = true ∧ c.mode = .m2 ∧ c.bcd = true) ∧
    val 2#16 true = some (1 + 1) ∧ val 1#16 true = some (0 + 1) ∧
    (counting false .m2 true 1#16 .lo).gate = false ∧
    ((counting true .m2 true 1#16 .lo).gate = true ∧ loadedCount (counting true .m2 true 1#16 .lo) = some 1#16) ∧
    ((halfLoaded (counting true .m2 true 1#16 .lo) 9#8).gate = true ∧
      loadedCount (halfLoaded (counting true .m2 true 1#16 .lo) 9#8) = none) := by
  decide

theorem witness_PulseInMode3 :
    (∀ c ∈ [square true 2#16 1, square false 1#16 1, square true 1#16 1, halfLoaded (square true 1#16 1) 9#8],
      c.cfg = true ∧ c.run = true ∧ c.mode = .m3 ∧ c.bcd = true ∧ 1 ≤ c.half) ∧
    val 2#16 true = some (1 + 1) ∧ val 1#16 true = some (0 + 1) ∧ (square false 1#16 1).gate = false ∧
    ((square true 1#16 1).gate = true ∧ loadedCount (square true 1#16 1) = some 1#16) ∧
    ((halfLoaded (square true 1#16 1) 9#8).gate = true ∧ loadedCount (halfLoaded (square true 1#16 1) 9#8) = none) := by
  decide

theorem witness_PulseInModes4And5 :
    ((counting true .m4 true 1#16 .lo).cfg = true ∧ (counting true .m4 true 1#16 .lo).run = true ∧
      (counting true .m4 true 1#16 .lo).bc = some 1#16 ∧ val 1#16 true = some (0 + 1) ∧
      (counting true .m4 true 1#16 .lo).mode = .m4 ∧ (counting true .m4 true 1#16 .lo).gate = true) ∧
    ((counting false .m5 true 2#16 .hi).cfg = true ∧ (counting false .m5 true 2#16 .hi).run = true ∧
      (counting false .m5 true 2#16 .hi).bc = some 2#16 ∧ val 2#16 true = some (1 + 1) ∧
      (counting false .m5 true 2#16 .hi).mode = .m5) := by
  decide

/-- Mode 0 and mode 1, with the pulses 0 and 1 of the count 1. -/
theorem witness_TerminalCountAtPulseN :
    (∀ c ∈ [counting true .m0 true 1#16 .lo, counting false .m1 true 1#16 .lo],
      c.cfg = true ∧ c.run = true ∧ c.bc = some 1#16 ∧ val 1#16 c.bcd = some 1 ∧ c.out = .lo) ∧
    0 < 1 ∧ (counting true .m0 true 1#16 .lo).mode = .m0 ∧ (counting true .m0 true 1#16 .lo).gate = true ∧
    (counting false .m1 true 1#16 .lo).mode = .m1 := by
  decide

theorem witness_RateGeneratorPeriod :
    (counting true .m2 true 2#16 .hi).cfg = true ∧ (counting true .m2 true 2#16 .hi).mode = .m2 ∧
    (counting true .m2 true 2#16 .hi).run = true ∧ (counting true .m2 true 2#16 .hi).gate = true ∧
    (counting true .m2 true 2#16 .hi).out = .hi ∧ (counting true .m2 true 2#16 .hi).bc = some 2#16 ∧
    loadedCount (counting true .m2 true 2#16 .hi) = some 2#16 ∧ val 2#16 true = some 2 := by
  decide

theorem witness_SquareWavePeriod :
    (square true 3#16 1).cfg = true ∧ (square true 3#16 1).mode = .m3 ∧ (square true 3#16 1).run = true ∧
    (square true 3#16 1).gate = true ∧ (square true 3#16 1).out = .hi ∧ (square true 3#16 1).bc = some 3#16 ∧
    loadedCount (square true 3#16 1) = some 3#16 ∧ val 3#16 true = some 3 ∧ (square true 3#16 1).half = 3 / 2 := by
  decide

theorem witness_StrobeIsOnePulse :
    (∀ c ∈ [counting true .m4 true 2#16 .hi, counting false .m5 true 2#16 .hi],
      c.cfg = true ∧ c.run = true ∧ c.bc = some 2#16 ∧ val 2#16 c.bcd = some 2 ∧ c.out = .hi) ∧
    (counting true .m4 true 2#16 .hi).mode = .m4 ∧ (counting true .m4 true 2#16 .hi).gate = true ∧
    (counting false .m5 true 2#16 .hi).mode = .m5 := by
  decide

theorem witness_GateLevelInModes0And4 :
    ((fresh false .m0 .lsms true).cfg = true ∧ (fresh false .m0 .lsms true).mode = .m0 ∧
      (fresh false .m0 .lsms true).gate = false) ∧
    ((counting false .m4 true 5#16 .hi).cfg = true ∧ (counting false .m4 true 5#16 .hi).mode = .m4) := by
  decide

theorem witness_TriggerStartsTheCount :
    (counting false .m1 true 0x3412#16 .hi).cfg = true ∧ (counting false .m1 true 0x3412#16 .hi).gate = false ∧
    (counting false .m1 true 0x3412#16 .hi).mode ≠ .m0 ∧ (counting false .m1 true 0x3412#16 .hi).mode ≠ .m4 ∧
    loadedCount (counting false .m1 true 0x3412#16 .hi) = some 0x3412#16 ∧ val 0x3412#16 true = some 3412 := by
  decide

theorem witness_TriggerNotLoaded :
    ((fresh false .m5 .lsms true).gate = false ∧ (fresh false .m5 .lsms true).cfg = true ∧
      (fresh false .m5 .lsms true).mode ≠ .m0 ∧ (fresh false .m5 .lsms true).mode ≠ .m4 ∧
      loadedCount (fresh false .m5 .lsms true) = none) ∧
    ((Counter.powerOn false).gate = false ∧ (Counter.powerOn false).cfg = false) := by
  decide

theorem witness_MviLoadsTheAccumulator :
    State.reset.host.pc.toNat < 65534 ∧ ({ State.reset.host with pc := 0xFFFD#16 } : HostRegs).pc.toNat < 65534 := by
  decide

theorem witness_MovCopiesTheAccumulator :
    State.reset.host.pc.toNat < 65535 ∧ ({ State.reset.host with pc := 0xFFFE#16 } : HostRegs).pc.toNat < 65535 := by
  decide

theorem witness_PcStepping : (0xFFFE#16 : Word).toNat < 65535 := by decide

/-- The last port below the device, the four ports of the device, and the first above it. -/
theorem witness_OutIsABusWrite :
    (0x7F#8).toNat / 4 ≠ State.reset.board.portBase.toNat ∧ (0x84#8).toNat / 4 ≠ State.reset.board.portBase.toNat ∧
    ((0x83#8).toNat / 4 = State.reset.board.portBase.toNat ∧ (0x83#8).toNat % 4 = 3) ∧
    ((0x82#8).toNat / 4 = State.reset.board.portBase.toNat ∧ (0x82#8).toNat % 4 = (ctrBits .c2).toNat) ∧
    ((State.setA State.reset 0xB1#8).host.a = encodeModeWord .c2 .lsms .m0 true ∧
      ((State.setA State.reset 0xB1#8).ctr .c2).cfg = false) ∧
    (((dev (fresh true .m0 .lsms true)).ctr .c2).cfg = true ∧ ((dev (fresh true .m0 .lsms true)).ctr .c2).rph = .ls ∧
      latchHalfRead (dev (fresh true .m0 .lsms true)).latch .c2 = false ∧
      ((dev (fresh true .m0 .lsms true)).ctr .c2).rw = .lsms ∧ ((dev (fresh true .m0 .lsms true)).ctr .c2).wph = .ls) := by
  decide

/-- An `OUT` that the device takes, and one that it refuses. -/
theorem witness_OutIsABusWrite_outcomes :
    (∃ t, exec (.busWrCtl 0xB1#8) (State.setA State.reset 0xB1#8) = .next t) ∧
    exec (busWriteOf .c2 (State.setA State.reset 0xB1#8).host.a) (State.setA State.reset 0xB1#8) =
      .refused .unconfigured :=
  ⟨⟨_, rfl⟩, rfl⟩

theorem witness_InIsABusRead :
    (0xCA#8).toNat / 4 ≠ State.reset.board.portBase.toNat ∧ (0x83#8).toNat % 4 = 3 ∧
    ((0x80#8).toNat / 4 = State.reset.board.portBase.toNat ∧ (0x80#8).toNat % 4 = (ctrBits .c0).toNat) ∧
    ((0x82#8).toNat / 4 = State.reset.board.portBase.toNat ∧ (0x82#8).toNat % 4 = (ctrBits .c2).toNat) ∧
    (((dev (fresh true .m0 .lsms true)).ctr .c2).cfg = true ∧ ((dev (fresh true .m0 .lsms true)).ctr .c2).wph = .ls) ∧
    refusalOf (exec (busReadOf .c0) State.reset) = some .unconfigured := by
  decide

theorem witness_OtherCountersUnchanged :
    (∃ t, exec (.cwMode0 .c2 .lsms true) State.reset = .next t) ∧
    busTarget State.reset (.cwMode0 .c2 .lsms true) ≠ some .c0 ∧ pinTarget (.cwMode0 .c2 .lsms true) ≠ some .c0 :=
  ⟨⟨_, rfl⟩, nofun, nofun⟩

/-- An instruction for each premise that names one. -/
theorem witness_HostAndMemoryFrame :
    (∃ t, exec .movDA (State.setA State.reset 1#8) = .next t ∧ t.host.d ≠ (State.setA State.reset 1#8).host.d) ∧
    (∃ t, exec .movEA (State.setA State.reset 1#8) = .next t ∧ t.host.e ≠ (State.setA State.reset 1#8).host.e) ∧
    (∃ t, exec (.mviA 1#8) State.reset = .next t ∧ t.host.a ≠ State.reset.host.a ∧ t.host.pc ≠ State.reset.host.pc) :=
  ⟨⟨_, rfl, by decide⟩, ⟨_, rfl, by decide⟩, _, rfl, by decide, by decide⟩

theorem witness_TemporaryRegisterFrame :
    ((∃ t, exec (.clkPulse .c2) (devLatch (fresh true .m0 .lsms true) waiting) = .next t) ∧
      (devLatch (fresh true .m0 .lsms true) waiting).latch = some waiting ∧
      busTarget (devLatch (fresh true .m0 .lsms true) waiting) (.clkPulse .c2) ≠ some waiting.counter) ∧
    ∃ t x, exec (.cwLatch .c2 0#4) (dev (fresh true .m0 .lsms true)) = .next t ∧
      (dev (fresh true .m0 .lsms true)).latch = none ∧ t.latch = some x :=
  ⟨⟨⟨_, rfl⟩, rfl, nofun⟩, _, _, rfl, rfl, rfl⟩

/-- A counter at power-on satisfies the invariants. -/
theorem powerOn_counterInv (g : Bool) : CounterInv (Counter.powerOn g) where
  unset := fun _ => ⟨rfl, rfl, rfl, rfl, rfl⟩
  driven := nofun
  oneByte := nofun
  legal := nofun
  running := nofun
  stopped := fun _ => .inl rfl
  halfBound := Nat.zero_le _

theorem powerOn_outputInv (g : Bool) : OutputInv (Counter.powerOn g) where
  mode0Fresh := nofun
  mode0Done := nofun
  mode1 := nofun
  mode2 := nofun
  mode3 := nofun
  mode3Half := nofun
  mode4 := nofun
  mode5 := nofun

/-- A counter set up in mode 1, its gate at 0 and nothing loaded, satisfies them. -/
theorem fresh_counterInv : CounterInv (fresh false .m1 .lsms true) where
  unset := nofun
  driven := fun _ => nofun
  oneByte := fun _ h => absurd rfl h
  legal := nofun
  running := nofun
  stopped := fun _ => .inl rfl
  halfBound := by decide

theorem fresh_outputInv : OutputInv (fresh false .m1 .lsms true) where
  mode0Fresh := nofun
  mode0Done := nofun
  mode1 := fun _ _ => ⟨nofun, nofun⟩
  mode2 := nofun
  mode3 := nofun
  mode3Half := nofun
  mode4 := nofun
  mode5 := nofun

/-- The machine at power-on, about to take a control word. -/
def aboutToSetUp : State := { State.reset with inputs := [.event (.cw 0xB1#8)] }

theorem witness_SetUpIsForever :
    CounterInv (aboutToSetUp.ctr .c2) ∧
    (∃ t, step aboutToSetUp = .next t ∧ (t.ctr .c2).out ≠ .z) ∧
    CounterInv ((dev (fresh false .m1 .lsms true)).ctr .c2) ∧
    ((dev (fresh false .m1 .lsms true)).ctr .c2).cfg = true ∧
    ∃ t, step { dev (fresh false .m1 .lsms true) with inputs := [.event (.clk 2#2)] } = .next t :=
  ⟨powerOn_counterInv true, ⟨_, rfl, nofun⟩, fresh_counterInv, rfl, _, rfl⟩

/-- A machine that satisfies the invariant and has a step to make. -/
theorem witness_StepKeepsInv : Inv aboutToSetUp ∧ ∃ t, step aboutToSetUp = .next t :=
  ⟨⟨fun n => by cases n <;> exact powerOn_counterInv true, fun n => by cases n <;> exact powerOn_outputInv true,
    nofun, rfl⟩, _, rfl⟩

/-- The invariant of a machine at power-on, which is all that `CountsAreDefined` asks. -/
theorem witness_CountsAreDefined : Inv aboutToSetUp := witness_StepKeepsInv.1

/-- A machine of the invariant that refuses a rise of its gate, and a machine that refuses a pulse. -/
theorem witness_EnvironmentRefusals :
    Inv (dev (fresh false .m1 .lsms true)) ∧
    refusalOf (exec (.gateSet .c2 true) (dev (fresh false .m1 .lsms true))) = some .notLoaded ∧
    refusalOf (exec (.clkPulse .c2)
      (dev (halfLoaded { counting true .m2 false 2#16 .lo with bc := some 1#16 } 9#8))) = some .notLoaded :=
  ⟨⟨fun n => by cases n <;> first | exact fresh_counterInv | exact powerOn_counterInv true,
    fun n => by cases n <;> first | exact fresh_outputInv | exact powerOn_outputInv true, nofun, rfl⟩,
    by decide, by decide⟩

theorem witness_InterruptRequestOfMode0 :
    irqPinOf (wiringOf { Board.default with wiring2 := .rst75 } .c2) = some .rst75 ∧
    ((counting true .m0 true 1#16 .lo).cfg = true ∧ (counting true .m0 true 1#16 .lo).mode = .m0 ∧
      (counting true .m0 true 1#16 .lo).run = true ∧ (counting true .m0 true 1#16 .lo).gate = true ∧
      countIs (counting true .m0 true 1#16 .lo) 1 = true) ∧
    ((stopped .m0 5#16).cfg = true ∧ (stopped .m0 5#16).run = false ∧ (stopped .m0 5#16).out = .hi ∧
      pinTarget (.gateSet .c2 false) = some .c2) ∧
    ((stopped .m0 5#16).wph = .ls ∧ (stopped .m0 5#16).rph = .ls ∧ latchIsOf none .c2 = false) := by
  decide

end Sys2Proof.Tests
end

/-! The count-down step of R8 and R100 on the numbers that words stand for. -/

namespace Sys2Proof.Machine

/-- The hex digits of a word that stands for `k` in decimal are the decimal digits of `k` (R8, D22). -/
theorem digits_of_val_decimal {w : Word} {k : Nat} (h : val w true = some k) :
    w.toNat / 4096 = k / 1000 ∧ w.toNat / 256 % 16 = k / 100 % 10 ∧ w.toNat / 16 % 16 = k / 10 % 10 ∧
      w.toNat % 16 = k % 10 := by
  rw [val_decimal, Option.ite_none_right_eq_some, Option.some.injEq] at h
  generalize w.toNat / 4096 = d3, w.toNat / 256 % 16 = d2, w.toNat / 16 % 16 = d1, w.toNat % 16 = d0 at h ⊢
  omega

/-- `enc` gives back the word whose number it is given, in binary and in decimal (R8). -/
theorem enc_of_val {w : Word} {b : Bool} {k : Nat} (h : val w b = some k) : enc k b = w := by
  apply BitVec.eq_of_toNat_eq
  cases b with
  | false =>
    rw [val_binary, Option.some.injEq] at h
    simp [enc, ← h]
  | true =>
    obtain ⟨h3, h2, h1, h0⟩ := digits_of_val_decimal h
    rw [toNat_enc_decimal k (val_le_max h), ← h3, ← h2, ← h1, ← h0]
    clear h3 h2 h1 h0
    omega

theorem dec1_of_val {w : Word} {b : Bool} {k : Nat} (h : val w b = some (k + 1)) : dec1 w b = some (enc k b) :=
  (dec1_eq_some_iff w (enc k b) b).2 ⟨k, h, rfl⟩

/-- Settles O31: `enc_of_val` and `val_enc` are the two inverses; `dec1` answers `enc k` at exactly the words of a
number `k + 1`, and `enc k` stands for `k`. -/
theorem decrementIsByOne : Obligations.DecrementIsByOne := by
  intro b
  refine ⟨fun w k h => enc_of_val h, fun k hk => val_enc hk, fun w k h => ?_, fun w w' h => ?_⟩
  · exact ⟨enc k b, dec1_of_val h, val_after_countDown h⟩
  · obtain ⟨k, hk, -⟩ := (dec1_eq_some_iff w w' b).1 h
    exact ⟨k, hk⟩

end Sys2Proof.Machine

/-! What one instruction can do to the device, said once: the act on the counters and the temporary register behind
every row of the opcode table, and the frames that follow from it (R20, R24, R29). -/

namespace Sys2Proof.Machine

/-! ## States that differ outside the device only -/

/-- `t` holds what `s` holds in the counters, the temporary register and program memory; data pins, draws, queue and
host registers may differ. -/
structure SameDevice (s t : State) : Prop where
  ctr : ∀ n, t.ctr n = s.ctr n
  latch : t.latch = s.latch
  mem : t.mem = s.mem

namespace SameDevice

variable {s t u : State}

theorem refl (s : State) : SameDevice s s := ⟨fun _ => rfl, rfl, rfl⟩

theorem trans (h : SameDevice s t) (h' : SameDevice t u) : SameDevice s u :=
  ⟨fun n => (h'.ctr n).trans (h.ctr n), h'.latch.trans h.latch, h'.mem.trans h.mem⟩

theorem tristate (s : State) : SameDevice s s.tristate := ⟨by simp, rfl, rfl⟩

theorem drive (s : State) (b : Byte) : SameDevice s (s.drive b) := ⟨by simp, rfl, rfl⟩

theorem drawn (s : State) : SameDevice s s.drawn := ⟨by simp, rfl, rfl⟩

theorem receive (s : State) : SameDevice s s.receive := ⟨by simp, by simp, by simp⟩

theorem pcBy1 (s : State) : SameDevice s s.pcBy1 := ⟨by simp, rfl, rfl⟩

theorem pcBy2 (s : State) : SameDevice s s.pcBy2 := ⟨by simp, rfl, rfl⟩

theorem popInput (s : State) : SameDevice s s.popInput := ⟨fun n => by cases n <;> rfl, rfl, rfl⟩

theorem host (s : State) (r : HostRegs) : SameDevice s { s with host := r } := ⟨fun n => by cases n <;> rfl, rfl, rfl⟩

theorem setCtr (h : SameDevice s t) (n : CtrIdx) (c : Counter) : SameDevice (s.setCtr n c) (t.setCtr n c) :=
  ⟨fun m => by simp only [State.ctr_setCtr, h.ctr], by simpa using h.latch, by simpa using h.mem⟩

theorem withLatch (h : SameDevice s t) (l : Option Latched) : SameDevice { s with latch := l } { t with latch := l } :=
  ⟨fun n => by cases n; exacts [h.ctr .c0, h.ctr .c1, h.ctr .c2], rfl, h.mem⟩

end SameDevice

@[simp] theorem State.ctr_withLatch (s : State) (l : Option Latched) (n : CtrIdx) :
    State.ctr { s with latch := l } n = s.ctr n := by cases n <;> rfl

/-! ## The acts -/

/-- The acts of one instruction on the device, with the guards under which they are admitted; `bus` and `pin` are the
counters that its bus operation is for and that its pin belongs to (R24, R29). -/
inductive DeviceAct (bus pin : Option CtrIdx) (s : State) : State → Prop where
  /-- no event of the device, a no-operation state, or a direct read that turns no phase (R34, R90) -/
  | idle : DeviceAct bus pin s s
  /-- a mode-setting word (R61) -/
  | modeSet (n : CtrIdx) (rw : RW) (m : Mode) (bcd : Bool) (hn : bus = some n)
      (hadm : (s.ctr n).cfg = true → midSequence (s.ctr n) = false ∧ latchIsOf s.latch n = false) :
      DeviceAct bus pin s (s.setCtr n (setUp rw m bcd (s.ctr n)))
  /-- the read-on-the-fly command (R68) -/
  | capture (n : CtrIdx) (hn : bus = some n) (hcfg : (s.ctr n).cfg = true) (hlatch : s.latch = none)
      (hmid : midSequence (s.ctr n) = false) :
      DeviceAct bus pin s { s with latch := some { counter := n, value := (s.ctr n).bc, left := .two } }
  /-- a byte written to a counter port (R76) -/
  | write (n : CtrIdx) (d : Byte) (level : Bool) (c : Counter) (hn : bus = some n) (hcfg : (s.ctr n).cfg = true)
      (hrph : (s.ctr n).rph = .ls) (hhalf : latchHalfRead s.latch n = false)
      (hc : writeByte s.board level d (s.ctr n) = .ok c) : DeviceAct bus pin s (s.setCtr n c)
  /-- a direct read that turns the read phase (R90) -/
  | turn (n : CtrIdx) (p : Phase) (hn : bus = some n) (hcfg : (s.ctr n).cfg = true) (hwph : (s.ctr n).wph = .ls)
      (hlatch : latchIsOf s.latch n = false) (hrw : (s.ctr n).rw = .lsms) :
      DeviceAct bus pin s (s.setCtr n { s.ctr n with rph := p })
  /-- the first read of a captured value (R89) -/
  | firstRead (n : CtrIdx) (v : Option Word) (hn : bus = some n) (hcfg : (s.ctr n).cfg = true)
      (hwph : (s.ctr n).wph = .ls) (hlatch : s.latch = some { counter := n, value := v, left := .two }) :
      DeviceAct bus pin s { s with latch := some { counter := n, value := v, left := .one } }
  /-- the second read of a captured value (R89) -/
  | secondRead (n : CtrIdx) (v : Option Word) (hn : bus = some n) (hcfg : (s.ctr n).cfg = true)
      (hwph : (s.ctr n).wph = .ls) (hlatch : s.latch = some { counter := n, value := v, left := .one }) :
      DeviceAct bus pin s { s with latch := none }
  /-- a clock pulse (R24) -/
  | pulse (n : CtrIdx) (c : Counter) (hn : pin = some n) (hc : clockCounter (s.ctr n) = .ok c) :
      DeviceAct bus pin s (s.setCtr n c)
  /-- a gate pin takes a level (R24) -/
  | gate (n : CtrIdx) (v : Bool) (c : Counter) (hn : pin = some n) (hc : gateCounter v (s.ctr n) = .ok c) :
      DeviceAct bus pin s (s.setCtr n c)

/-- From `s` to `t` the device makes one act. -/
def DeviceEffect (bus pin : Option CtrIdx) (s t : State) : Prop := ∃ u, DeviceAct bus pin s u ∧ SameDevice u t

section Effects

variable {s t u : State} {n : CtrIdx} {bus pin : Option CtrIdx}

theorem DeviceEffect.idle (h : SameDevice s t) : DeviceEffect bus pin s t := ⟨s, .idle, h⟩

theorem DeviceEffect.then (h : DeviceEffect bus pin s t) (h' : SameDevice t u) : DeviceEffect bus pin s u := by
  obtain ⟨v, hv, hvt⟩ := h
  exact ⟨v, hv, hvt.trans h'⟩

theorem modeSet_effect {rw : RW} {m : Mode} {bcd : Bool} (h : modeSet n rw m bcd s = .next t) :
    DeviceEffect (some n) pin s t := by
  obtain ⟨hadm, rfl⟩ := modeSet_eq_next.1 h
  exact ⟨_, .modeSet n rw m bcd rfl hadm, .tristate _⟩

theorem latchCommand_effect (h : latchCommand n s = .next t) : DeviceEffect (some n) pin s t := by
  obtain ⟨hcfg, hlatch, hmid, rfl⟩ := latchCommand_eq_next.1 h
  exact ⟨_, .capture n rfl hcfg hlatch hmid, (SameDevice.tristate s).withLatch _⟩

theorem counterWrite_effect {d : Byte} (h : counterWrite n d s = .next t) : DeviceEffect (some n) pin s t := by
  obtain ⟨hcfg, hrph, hhalf, c, hc, rfl⟩ := counterWrite_eq_next.1 h
  exact ⟨_, .write n d _ c rfl hcfg hrph hhalf hc, ((SameDevice.tristate s).trans (.drawn _)).setCtr n c⟩

theorem counterRead_effect (h : counterRead n s = .next t) : DeviceEffect (some n) pin s t := by
  obtain ⟨hcfg, hwph, rfl⟩ := counterRead_eq_next.1 h
  obtain ⟨hl, e⟩ | ⟨⟨m, v, left⟩, hx, hm, e⟩ := readCounter_cases n s
  · rw [e]
    obtain ⟨b, e'⟩ | ⟨hrw, b, p, e'⟩ := directRead_cases n s <;> rw [e']
    · exact .idle (.drive s b)
    · exact ⟨_, .turn n p rfl hcfg hwph hl hrw, .drive _ b⟩
  · obtain rfl : m = n := hm
    rw [e]
    cases left with
    | two => exact ⟨_, .firstRead m v rfl hcfg hwph hx, .drive _ _⟩
    | one => exact ⟨_, .secondRead m v rfl hcfg hwph hx, .drive _ _⟩

theorem controlWrite_effect {d : Byte} (h : controlWrite d s = .next t) :
    DeviceEffect (ctrOfBits (cwSC d)) pin s t := by
  obtain ⟨n, hn, ⟨-, hl⟩ | ⟨rw, m, -, -, hm⟩⟩ := controlWrite_next h <;> rw [hn]
  · exact latchCommand_effect hl
  · exact modeSet_effect hm

theorem portWrite_effect {a : BitVec 2} {d : Byte} (h : portWrite a d s = .next t) :
    DeviceEffect (writeTarget a d) pin s t := by
  obtain ⟨ha, hc⟩ | ⟨n, ha, hw⟩ := portWrite_next h <;> simp only [writeTarget, ha]
  · exact controlWrite_effect hc
  · exact counterWrite_effect hw

theorem portRead_effect {a : BitVec 2} (h : portRead a s = .next t) : DeviceEffect (ctrOfBits a) pin s t := by
  obtain ⟨-, rfl⟩ | ⟨n, ha, hr⟩ := portRead_next h
  · exact .idle (.tristate s)
  · exact ha ▸ counterRead_effect hr

theorem busNop_effect (h : busNop s = .next t) : DeviceEffect bus pin s t := by
  cases h
  exact .idle (.tristate s)

theorem hostOut_effect {a8 : Byte} (h : hostOut a8 s = .next t) :
    DeviceEffect (busTarget s (.outA8 a8)) pin s t := by
  obtain ⟨hb, hw⟩ | ⟨-, rfl⟩ := hostOut_next h
  · simpa [busTarget, hb] using portWrite_effect hw
  · exact .idle (.tristate s)

theorem hostIn_effect {a8 : Byte} (h : hostIn a8 s = .next t) :
    DeviceEffect (busTarget s (.inA8 a8)) pin s t := by
  obtain ⟨hb, hr⟩ | ⟨-, rfl⟩ := hostIn_next h
  · simpa [busTarget, hb] using portRead_effect hr
  · exact .idle (.tristate s)

theorem clockPulse_effect (h : clockPulse n s = .next t) : DeviceEffect bus (some n) s t := by
  obtain ⟨c, hc, rfl⟩ := onCounter_eq_next.1 h
  exact ⟨_, .pulse n c rfl hc, .refl _⟩

theorem setGate_effect {v : Bool} (h : setGate n v s = .next t) : DeviceEffect bus (some n) s t := by
  obtain ⟨c, hc, rfl⟩ := onCounter_eq_next.1 h
  exact ⟨_, .gate n v c rfl hc, .refl _⟩

/-- What an instruction with a next state has done to the device: one act, on the counter that its bus operation is for
or whose pin it is on. -/
theorem exec_effect {i : Instr} (h : exec i s = .next t) : DeviceEffect (busTarget s i) (pinTarget i) s t := by
  cases i with
  | busRdC0 => exact portRead_effect (a := 0#2) h
  | busRdC1 => exact portRead_effect (a := 1#2) h
  | busRdC2 => exact portRead_effect (a := 2#2) h
  | busRdCtlNop => exact portRead_effect (a := 3#2) h
  | busWrC0 d => exact portWrite_effect (a := 0#2) h
  | busWrC1 d => exact portWrite_effect (a := 1#2) h
  | busWrC2 d => exact portWrite_effect (a := 2#2) h
  | busWrCtl d => exact portWrite_effect (a := 3#2) h
  | busNopDeselected pins => exact busNop_effect h
  | busNopIdle pins => exact busNop_effect h
  | busRdwrBothLow pins => cases h
  | cwIllegalSc w => cases h
  | cwLatch n x => exact latchCommand_effect h
  | cwMode0 n rw bcd => exact modeSet_effect h
  | cwMode1 n rw bcd => exact modeSet_effect h
  | cwMode2 n rw bcd => exact modeSet_effect h
  | cwMode3 n rw bcd => exact modeSet_effect h
  | cwMode4 n rw bcd => exact modeSet_effect h
  | cwMode5 n rw bcd => exact modeSet_effect h
  | cwIllegalMode w => cases h
  | cntWr n d => exact counterWrite_effect h
  | cntRd n => exact counterRead_effect h
  | clkPulse n => exact clockPulse_effect h
  | gateSet n v => exact setGate_effect h
  | mviA d8 => cases h; exact .idle ((SameDevice.host s _).trans (.pcBy2 _))
  | outA8 a8 =>
    obtain ⟨u, hu, hpc⟩ := andThen_eq_next.1 h
    cases hpc
    exact (hostOut_effect hu).then (.pcBy2 u)
  | inA8 a8 =>
    obtain ⟨u, hu, hpc⟩ := andThen_eq_next.1 h
    cases hpc
    exact (hostIn_effect hu).then ((SameDevice.receive u).trans (.pcBy2 _))
  | movEA => cases h; exact .idle ((SameDevice.host s _).trans (.pcBy1 _))
  | movDA => cases h; exact .idle ((SameDevice.host s _).trans (.pcBy1 _))

/-! ## Frames -/

theorem DeviceAct.mem_eq (h : DeviceAct bus pin s u) : u.mem = s.mem := by
  cases h <;> simp

/-- An act leaves every counter but its own (R29). -/
theorem DeviceAct.ctr_other {m : CtrIdx} (h : DeviceAct bus pin s u) (hb : bus ≠ some m) (hp : pin ≠ some m) :
    u.ctr m = s.ctr m := by
  have other : ∀ {n : CtrIdx} (c : Counter), some n ≠ some m → (s.setCtr n c).ctr m = s.ctr m :=
    fun c hnm => State.ctr_setCtr_other s c fun e => hnm (congrArg some e.symm)
  cases h with
  | idle => rfl
  | modeSet n rw mode bcd hn hadm => exact other _ (hn ▸ hb)
  | capture n hn hcfg hlatch hmid => exact State.ctr_withLatch s _ m
  | write n d level c hn hcfg hrph hhalf hc => exact other _ (hn ▸ hb)
  | turn n p hn hcfg hwph hlatch hrw => exact other _ (hn ▸ hb)
  | firstRead n v hn hcfg hwph hlatch => exact State.ctr_withLatch s _ m
  | secondRead n v hn hcfg hwph hlatch => exact State.ctr_withLatch s _ m
  | pulse n c hn hc => exact other _ (hn ▸ hp)
  | gate n v c hn hc => exact other _ (hn ▸ hp)

/-- An act that is no bus operation for the counter of a captured value leaves it (R20). -/
theorem DeviceAct.latch_kept {x : Latched} (h : DeviceAct bus pin s u) (hx : s.latch = some x)
    (hb : bus ≠ some x.counter) : u.latch = s.latch := by
  cases h with
  | idle => rfl
  | modeSet n rw m bcd hn hadm => simp
  | capture n hn hcfg hlatch hmid => cases hx.symm.trans hlatch
  | write n d level c hn hcfg hrph hhalf hc => simp
  | turn n p hn hcfg hwph hlatch hrw => simp
  | firstRead n v hn hcfg hwph hlatch => cases hx.symm.trans hlatch; exact absurd hn hb
  | secondRead n v hn hcfg hwph hlatch => cases hx.symm.trans hlatch; exact absurd hn hb
  | pulse n c hn hc => simp
  | gate n v c hn hc => simp

/-- Only the read-on-the-fly command fills the empty temporary register (R20, R68). -/
theorem DeviceAct.latch_filled {x : Latched} (h : DeviceAct bus pin s u) (hs : s.latch = none) (hx : u.latch = some x) :
    bus = some x.counter ∧ x.value = (s.ctr x.counter).bc ∧ x.left = .two := by
  have unfilled : u.latch ≠ s.latch := by simp [hs, hx]
  cases h with
  | idle => exact absurd rfl unfilled
  | modeSet n rw m bcd hn hadm => exact absurd (State.setCtr_latch _ _ _) unfilled
  | capture n hn hcfg hlatch hmid => cases hx; exact ⟨hn, rfl, rfl⟩
  | write n d level c hn hcfg hrph hhalf hc => exact absurd (State.setCtr_latch _ _ _) unfilled
  | turn n p hn hcfg hwph hlatch hrw => exact absurd (State.setCtr_latch _ _ _) unfilled
  | firstRead n v hn hcfg hwph hlatch => cases hs.symm.trans hlatch
  | secondRead n v hn hcfg hwph hlatch => cases hs.symm.trans hlatch
  | pulse n c hn hc => exact absurd (State.setCtr_latch _ _ _) unfilled
  | gate n v c hn hc => exact absurd (State.setCtr_latch _ _ _) unfilled

end Effects

/-- Settles O51: the one act of an instruction is on the counter of its bus operation or of its pin
(`DeviceAct.ctr_other`). -/
theorem otherCountersUnchanged : Obligations.OtherCountersUnchanged := by
  intro s t i m h hb hp
  obtain ⟨u, hu, hut⟩ := exec_effect h
  exact (hut.ctr m).trans (hu.ctr_other hb hp)

/-- Settles O53: the temporary register is kept by `DeviceAct.latch_kept` and filled by `DeviceAct.latch_filled`. -/
theorem temporaryRegisterFrame : Obligations.TemporaryRegisterFrame := by
  intro s t i h
  obtain ⟨u, hu, hut⟩ := exec_effect h
  exact ⟨fun x hx hb => hut.latch.trans (hu.latch_kept hx hb),
    fun x hs hx => hu.latch_filled hs (hut.latch.symm.trans hx)⟩

end Sys2Proof.Machine

/-! The gate at its level and the trigger of a counter that is not loaded (R24, R22, R212). -/

namespace Sys2Proof.Machine

theorem exec_gateSet (n : CtrIdx) (v : Bool) (s : State) :
    exec (.gateSet n v) s = onCounter n (gateCounter v) s := rfl

theorem onCounter_ok {n : CtrIdx} {f : Counter → Except Refusal Counter} {s : State} {c : Counter}
    (h : f (s.ctr n) = .ok c) : onCounter n f s = .next (s.setCtr n c) := by
  simp [onCounter, h]

theorem onCounter_error {n : CtrIdx} {f : Counter → Except Refusal Counter} {s : State} {r : Refusal}
    (h : f (s.ctr n) = .error r) : onCounter n f s = .refused r := by
  simp [onCounter, h]

theorem gateCounter_same (c : Counter) : gateCounter c.gate c = .ok c := if_pos rfl

theorem gateCounter_unset {v : Bool} {c : Counter} (hv : v ≠ c.gate) (hc : c.cfg = false) :
    gateCounter v c = .ok { c with gate := v } := by
  simp [gateCounter, hv, hc]

/-- The triggers of modes 1, 2, 3 and 5 (R112, R122, R132, R152). -/
theorem gateCounter_rise {c : Counter} (hg : c.gate = false) (hc : c.cfg = true) (h0 : c.mode ≠ .m0)
    (h4 : c.mode ≠ .m4) :
    gateCounter true c = startCount { c with gate := true } (if c.mode = .m1 then .lo else .hi) := by
  cases hm : c.mode <;> simp_all [gateCounter, gateInMode, gateTrigger]

theorem startCount_not_loaded {c : Counter} {o : OutPin} (h : loadedCount c = none) :
    startCount c o = .error .notLoaded := by
  simp [startCount, copyCount_not_loaded h]

/-- Settles O41. -/
theorem gateAtItsLevel : Obligations.GateAtItsLevel := by
  intro s n
  rw [exec_gateSet, onCounter_ok (gateCounter_same _), State.setCtr_ctr]

/-- Settles O45: the trigger starts the count with a copy, and a copy asks for a loaded counter register. -/
theorem triggerNotLoaded : Obligations.TriggerNotLoaded := by
  intro s n hg
  refine ⟨fun hc h0 h4 hl => ?_, fun hc => ?_⟩
  · have refused : gateCounter true (s.ctr n) = .error .notLoaded := by
      rw [gateCounter_rise hg hc h0 h4]
      exact startCount_not_loaded hl
    rw [exec_gateSet, onCounter_error refused]
  · rw [exec_gateSet, onCounter_ok (gateCounter_unset (by simp [hg]) hc)]

end Sys2Proof.Machine

/-! What a step runs: the event at the head of the queue, and the instruction placed at the fetch point (R24, R171). -/

namespace Sys2Proof.Machine

theorem nextEncoding_event {s : State} {x : Wire} {rest : List Input} (h : s.inputs = .event x :: rest) :
    nextEncoding s = .ok (.wire x) := by
  simp [nextEncoding, h]

theorem nextEncoding_host {s : State} {rest : List Input} (h : s.inputs = .host :: rest) :
    nextEncoding s = (fetchCode s.mem s.host.pc).map Encoding.code := by
  simp [nextEncoding, h]

theorem step_of_decode {s : State} {e : Encoding} {i : Instr} (he : nextEncoding s = .ok e)
    (hi : decode e = .ok i) : step s = exec i s.popInput := by
  simp [step, he, hi]

/-- Inversion of a step: it has run a decoded instruction. -/
theorem step_next {s t : State} (h : step s = .next t) : ∃ i, exec i s.popInput = .next t := by
  unfold step at h
  split at h
  · cases h
  · split at h
    · cases h
    · exact ⟨_, h⟩

/-- Settles O6. -/
theorem stepRunsTheEvent : Obligations.StepRunsTheEvent := by
  intro s x rest i hs hi
  rw [step_of_decode (nextEncoding_event hs) hi, State.popInput, hs, List.tail_cons]

/-! ## The decoder on the encoding of a well-formed instruction -/

/-- The fields of a mode-setting word (R48). -/
theorem decodeCw_encodeModeWord (n : CtrIdx) (rw : RW) (m : Mode) (bcd : Bool) :
    decodeCw (encodeModeWord n rw m bcd) = modeInstr m n rw bcd := by
  cases n <;> cases rw <;> cases m <;> cases bcd <;> rfl

/-- The fields of a read-on-the-fly command (R68). -/
theorem decodeCw_latch (n : CtrIdx) (x : BitVec 4) : decodeCw (ctrBits n ++ 0#2 ++ x) = .cwLatch n x := by
  cases n <;> revert x <;> decide

theorem ctrOfBits_eq_none {b : BitVec 2} : ctrOfBits b = none ↔ b = 3#2 := by revert b; decide

theorem rwOfBits_eq_none {b : BitVec 2} : rwOfBits b = none ↔ b = 0#2 := by revert b; decide

theorem modeOfBits_eq_none {b : BitVec 3} : modeOfBits b = none ↔ b.extractLsb' 1 2 = 3#2 := by revert b; decide

/-- The upper two bits of the field `M`, which are 11 in 110 and 111 (R51, R70). -/
theorem extractLsb'_cwM (w : Byte) : (cwM w).extractLsb' 1 2 = w.extractLsb' 2 2 := by
  ext j hj
  have inField : 1 + j < 3 := by omega
  simp [cwM, inField, ← Nat.add_assoc]

theorem decodeCw_illegalSc {w : Byte} (h : WellFormed (.cwIllegalSc w) = true) : decodeCw w = .cwIllegalSc w := by
  have hSC : ctrOfBits (cwSC w) = none := ctrOfBits_eq_none.2 (eq_of_beq h)
  simp only [decodeCw, hSC]

theorem decodeCw_illegalMode {w : Byte} (h : WellFormed (.cwIllegalMode w) = true) :
    decodeCw w = .cwIllegalMode w := by
  simp only [WellFormed, Bool.and_eq_true, Bool.not_eq_true', beq_eq_false_iff_ne, beq_iff_eq] at h
  obtain ⟨⟨hSC, hRW⟩, hM⟩ := h
  obtain ⟨n, hn⟩ := Option.ne_none_iff_exists'.1 (mt ctrOfBits_eq_none.1 hSC)
  obtain ⟨rw, hrw⟩ := Option.ne_none_iff_exists'.1 (mt rwOfBits_eq_none.1 hRW)
  have hmode : modeOfBits (cwM w) = none := modeOfBits_eq_none.2 ((extractLsb'_cwM w).trans hM)
  simp only [decodeCw, cwSC, cwRW, hn, hrw, hmode]

/-- The three rows of Table 25.1 that carry the pins themselves (R34, R45). -/
theorem decodeBus_pins {i : Instr} {pins : BitVec 5}
    (hi : i = .busNopDeselected pins ∨ i = .busNopIdle pins ∨ i = .busRdwrBothLow pins)
    (h : WellFormed i = true) (d : Byte) : decodeBus pins d = i := by
  obtain rfl | rfl | rfl := hi <;> simp_all [WellFormed, decodeBus]

theorem forCounter_ctrBits (n : CtrIdx) (f : CtrIdx → Instr) : forCounter (ctrBits n) f = .ok (f n) := by
  simp [forCounter]

/-- The decoder gives back a well-formed instruction from its encoding (R45, R53, R54, R57). -/
theorem decode_encode {i : Instr} (h : WellFormed i = true) : decode (encode i) = .ok i := by
  have word : ∀ {w : Byte} {j : Instr}, decodeCw w = j → decode (.wire (.cw w)) = .ok j := fun e => e ▸ rfl
  have pins : ∀ {p : BitVec 5} {j : Instr}, decodeBus p 0#8 = j → decode (.wire (.bus p 0#8)) = .ok j :=
    fun e => e ▸ rfl
  cases i with
  | busRdC0 => rfl
  | busRdC1 => rfl
  | busRdC2 => rfl
  | busRdCtlNop => rfl
  | busWrC0 d => rfl
  | busWrC1 d => rfl
  | busWrC2 d => rfl
  | busWrCtl d => rfl
  | busNopDeselected p => exact pins (decodeBus_pins (.inl rfl) h 0#8)
  | busNopIdle p => exact pins (decodeBus_pins (.inr (.inl rfl)) h 0#8)
  | busRdwrBothLow p => exact pins (decodeBus_pins (.inr (.inr rfl)) h 0#8)
  | cwIllegalSc w => exact word (decodeCw_illegalSc h)
  | cwLatch n x => exact word (decodeCw_latch n x)
  | cwMode0 n rw bcd => exact word (decodeCw_encodeModeWord n rw .m0 bcd)
  | cwMode1 n rw bcd => exact word (decodeCw_encodeModeWord n rw .m1 bcd)
  | cwMode2 n rw bcd => exact word (decodeCw_encodeModeWord n rw .m2 bcd)
  | cwMode3 n rw bcd => exact word (decodeCw_encodeModeWord n rw .m3 bcd)
  | cwMode4 n rw bcd => exact word (decodeCw_encodeModeWord n rw .m4 bcd)
  | cwMode5 n rw bcd => exact word (decodeCw_encodeModeWord n rw .m5 bcd)
  | cwIllegalMode w => exact word (decodeCw_illegalMode h)
  | cntWr n d => exact forCounter_ctrBits n fun n => .cntWr n d
  | cntRd n => exact forCounter_ctrBits n .cntRd
  | clkPulse n => exact forCounter_ctrBits n .clkPulse
  | gateSet n v => exact forCounter_ctrBits n fun n => .gateSet n v
  | mviA d8 => rfl
  | outA8 a8 => rfl
  | inA8 a8 => rfl
  | movEA => rfl
  | movDA => rfl

/-! ## The instruction placed at the fetch point -/

/-- The bytes that decode are an opcode with as many bytes as it asks for (R57, R171). -/
theorem decodeCode_ok {bytes : List Byte} {i : Instr} (h : decodeCode bytes = .ok i) :
    (∃ op, bytes = [op] ∧ takesOperand op = false) ∨ ∃ op b, bytes = [op, b] ∧ takesOperand op = true := by
  rcases bytes with _ | ⟨op, _ | ⟨b, _ | ⟨c, rest⟩⟩⟩
  · cases h
  · refine .inl ⟨op, rfl, ?_⟩
    simp only [decodeCode] at h
    split_ifs at h with hE hD
    · rw [hE]; rfl
    · rw [hD]; rfl
  · refine .inr ⟨op, b, rfl, ?_⟩
    simp only [decodeCode] at h
    split_ifs at h with hMvi hOut hIn
    · rw [hMvi]; rfl
    · rw [hOut]; rfl
    · rw [hIn]; rfl
  · cases h

/-- Below FFFFH the second byte of an instruction stands at another address than its first (R171). -/
theorem pcNext_toNat_ne {pc : Word} (h : pc ≠ 0xFFFF#16) : pc.toNat ≠ (pcNext pc).toNat := by
  rw [pcNext, if_neg h]
  bv_omega

/-- The fetch takes what was placed at PC (log 1). -/
theorem fetchCode_writeCode {bytes : List Byte} {i : Instr} {pc : Word} (m : Memory)
    (h : decodeCode bytes = .ok i) (hpc : pc ≠ 0xFFFF#16) : fetchCode (writeCode m pc bytes) pc = .ok bytes := by
  obtain ⟨op, rfl, ht⟩ | ⟨op, b, rfl, ht⟩ := decodeCode_ok h
  · have hop := fetchByte_ok_iff.2 (Memory.read_write_same m pc.toNat op)
    simp [fetchCode, writeCode, hop, ht]
  · have hop : fetchByte (writeCode m pc [op, b]) pc = .ok op :=
      fetchByte_ok_iff.2 ((Memory.read_write_other _ b (pcNext_toNat_ne hpc)).trans (Memory.read_write_same m _ op))
    have hb : fetchByte (writeCode m pc [op, b]) (pcNext pc) = .ok b :=
      fetchByte_ok_iff.2 (Memory.read_write_same _ _ b)
    simp only [fetchCode, hop, hb, ht, if_true]

/-- Settles O8: the placed event is the head of the queue, and the placed bytes are what the fetch takes
(`fetchCode_writeCode`); either decodes to the instruction (`decode_encode`). -/
theorem placedInstructionRuns : Obligations.PlacedInstructionRuns := by
  intro s i hi hpc
  have hdec := decode_encode hi
  cases he : encode i with
  | wire x => exact step_of_decode (nextEncoding_event rfl) (he ▸ hdec)
  | code bytes =>
    rw [he] at hdec
    have hfetch : nextEncoding (placeEncoding s (.code bytes)) = .ok (.code bytes) := by
      rw [nextEncoding_host rfl]
      exact congrArg (Except.map Encoding.code) (fetchCode_writeCode s.mem hdec hpc)
    exact step_of_decode hfetch hdec

end Sys2Proof.Machine

/-! How a running count starts and goes on, in all six modes at once (R22, R24, R100). -/

namespace Sys2Proof.Machine

variable {c c' : Counter}

/-! ## Starting a count -/

/-- The counter after a copy of the count `w`, which stands for `k`, with the output at `o` and the count running. -/
def started (c : Counter) (w : Word) (k : Nat) (o : OutPin) : Counter :=
  { c with bc := some w, run := true, out := o, half := if c.mode = .m3 then k / 2 else c.half }

theorem startCount_of_loaded {w : Word} {k : Nat} (o : OutPin) (hw : loadedCount c = some w)
    (hk : val w c.bcd = some k) : startCount c o = .ok (started c w k o) := by
  simp [startCount, copyCount_of_loaded hw hk, started]

/-- Where the counter register holds a legal count, a start takes it (R22, R82). -/
theorem startCount_legal {o : OutPin} (hl : ∀ w, loadedCount c = some w → checkCount w c.bcd c.mode = .ok ())
    (h : startCount c o = .ok c') :
    ∃ w k, val w c.bcd = some (k + 1) ∧ (k = 0 → c.mode = .m0 ∨ c.mode = .m1) ∧ c' = started c w (k + 1) o := by
  obtain ⟨d, hd, -⟩ := startCount_ok h
  obtain ⟨w, hw, -⟩ := copyCount_ok hd
  obtain ⟨k, hk, hone⟩ := checkCount_ok_iff.1 (hl w hw)
  rw [startCount_of_loaded o hw hk] at h
  exact ⟨w, k, hk, hone, by cases h; rfl⟩

/-- The output levels at which a count can start (R101, R112, R121, R122, R131, R132, R141, R152). -/
def StartLevel (m : Mode) (o : OutPin) : Prop :=
  match m with
  | .m0 => o ≠ .z
  | .m1 => o = .lo
  | .m2 | .m3 | .m4 | .m5 => o = .hi

theorem StartLevel.ne_z {m : Mode} {o : OutPin} (h : StartLevel m o) : o ≠ .z := by
  cases m <;> simp_all [StartLevel]

theorem startLevel_trigger {m : Mode} (h0 : m ≠ .m0) : StartLevel m (if m = .m1 then .lo else .hi) := by
  cases m <;> simp_all [StartLevel]

theorem reloadLevel_ne_z {p : Mode0Reload} {level : Bool} {o : OutPin} (h : reloadLevel p level = .ok o) :
    o ≠ .z := by
  cases p <;> cases level <;> cases h <;> simp

/-- A completed load starts a count or leaves the counter as the bytes left it (R101, R111, R121, R131, R141, R151). -/
theorem loadComplete_started {p : Mode0Reload} {level : Bool} (hz : c.out ≠ .z)
    (h : loadComplete p level c = .ok c') :
    c' = c ∨ ∃ o, StartLevel c.mode o ∧ startCount c o = .ok c' := by
  obtain ⟨w, -, -, hl⟩ := loadComplete_ok h
  cases hm : c.mode <;> simp only [hm] at hl
  case m0 =>
    obtain ⟨-, -, o, ho, hs⟩ | ⟨-, hs⟩ := load0_ok hl
    · exact .inr ⟨o, reloadLevel_ne_z ho, hs⟩
    · exact .inr ⟨c.out, hz, hs⟩
  case m1 =>
    exact .inl hl
  case m2 =>
    obtain ⟨-, hs⟩ | ⟨-, rfl⟩ := load2_ok hl
    · exact .inr ⟨.hi, rfl, hs⟩
    · exact .inl rfl
  case m3 =>
    obtain ⟨-, hs⟩ | ⟨-, rfl⟩ := load3_ok hl
    · exact .inr ⟨.hi, rfl, hs⟩
    · exact .inl rfl
  case m4 =>
    exact .inr ⟨.hi, rfl, hl⟩
  case m5 =>
    exact .inl hl

/-- A write to the counter port stores bytes in the counter register, which completes the load or does not (R77, R78). -/
theorem writeByte_registers {b : Board} {level : Bool} {d : Byte} (h : writeByte b level d c = .ok c') :
    ∃ crl crm wph, (c.rw ≠ .lsms → wph = c.wph) ∧
      ((wph = .ms ∧ c' = { c with crl := crl, crm := crm, wph := wph }) ∨
        loadComplete b.mode0Reload level { c with crl := crl, crm := crm, wph := wph } = .ok c') := by
  obtain ⟨hrw, -, rfl⟩ | ⟨hrw, -, hl⟩ | ⟨-, -, hl⟩ | ⟨-, -, hl⟩ := writeByte_ok h
  · exact ⟨some d, c.crm, .ms, fun hne => absurd hrw hne, .inl ⟨rfl, rfl⟩⟩
  · exact ⟨c.crl, some d, .ls, fun hne => absurd hrw hne, .inr hl⟩
  · exact ⟨some d, some 0#8, c.wph, fun _ => rfl, .inr hl⟩
  · exact ⟨some 0#8, some d, c.wph, fun _ => rfl, .inr hl⟩

/-! ## Counting down -/

theorem enc_zero (b : Bool) : enc 0 b = 0#16 := enc_of_val (val_zero b)

/-- The counter with the BCounter at the count `k` and the output at `o`. -/
def countedTo (c : Counter) (k : Nat) (o : OutPin) : Counter := { c with bc := some (enc k c.bcd), out := o }

/-- The counter at rest after the terminal count (D13). -/
def atRest (c : Counter) : Counter := { c with bc := some 0#16, out := .hi, run := false }

/-- The count at which a pulse takes the output to 0 (R124, R133, R144, R154); none in modes 0 and 1. -/
def lowMark (c : Counter) : Option Nat :=
  match c.mode with
  | .m0 | .m1 => none
  | .m2 | .m4 | .m5 => some 1
  | .m3 => some c.half

section Counted

variable {k : Nat} {o : OutPin}

theorem countDown_countedTo {d : Counter} (h : countDown c = .ok d) :
    ∃ w k, c.bc = some w ∧ val w c.bcd = some (k + 1) ∧ d = countedTo c k c.out := countDown_ok h

theorem countIs_countedTo (hk : k ≤ maxCount c.bcd) (j : Nat) : countIs (countedTo c k o) j = decide (k = j) := by
  simp [countIs, countedTo, val_enc hk, beq_eq_decide]

theorem atTC_countedTo (hk : k ≤ maxCount c.bcd) : atTC (countedTo c k o) = decide (k = 0) :=
  atTC_iff_countIs.trans (countIs_countedTo hk 0)

theorem lowAt_countedTo (hk : k ≤ maxCount c.bcd) (j : Nat) :
    lowAt j (countedTo c k o) = countedTo c k (if k = j then .lo else o) := by
  rw [lowAt, countIs_countedTo hk]
  by_cases hj : k = j <;> simp [hj, countedTo]

theorem stopAtTC_countedTo (hk : k ≤ maxCount c.bcd) :
    stopAtTC (countedTo c k o) = if k = 0 then atRest c else countedTo c k o := by
  rw [stopAtTC, atTC_countedTo hk]
  by_cases h0 : k = 0 <;> simp [h0, countedTo, atRest, enc_zero]

/-- The copy at the terminal count of a running count is a new start with the output at 1 (R124, R133). -/
theorem copyCount_countedTo (hr : c.run = true) : copyCount { countedTo c k o with out := .hi } = startCount c .hi := by
  have hl : loadedCount { countedTo c k o with out := .hi } = loadedCount c := rfl
  simp only [startCount, copyCount, hl]
  cases loadedCount c with
  | none => rfl
  | some w =>
    by_cases hm : c.mode = .m3
    · cases hv : val w c.bcd <;> simp [countedTo, hm, hv, hr]
    · simp [countedTo, hm, hr]

theorem reloadAtTC_countedTo (hk : k ≤ maxCount c.bcd) (hr : c.run = true)
    (h : reloadAtTC (countedTo c k o) = .ok c') :
    (k ≠ 0 ∧ c' = countedTo c k o) ∨ (k = 0 ∧ c' = atRest c) ∨ (k = 0 ∧ startCount c .hi = .ok c') := by
  obtain ⟨hz, rfl⟩ | ⟨hz, -, rfl⟩ | ⟨hz, -, hc⟩ := reloadAtTC_ok h <;> rw [atTC_countedTo hk] at hz
  · exact .inl ⟨of_decide_eq_false hz, rfl⟩
  · obtain rfl := of_decide_eq_true hz
    exact .inr (.inl ⟨rfl, by simp [countedTo, atRest, enc_zero]⟩)
  · exact .inr (.inr ⟨of_decide_eq_true hz, copyCount_countedTo hr ▸ hc⟩)

end Counted

/-- What a pulse can do to a counter, in every mode. -/
inductive PulseEffect (c : Counter) : Counter → Prop where
  /-- the pulse is not counted (R212, R102, R144, D13) -/
  | ignored : PulseEffect c c
  /-- the count goes from `k + 1` to `k`, which is at least 1 -/
  | down (w : Word) (k : Nat) (hcfg : c.cfg = true) (hrun : c.run = true) (hbc : c.bc = some w)
      (hval : val w c.bcd = some (k + 1)) (hk : k ≠ 0) :
      PulseEffect c (countedTo c k (if lowMark c = some k then .lo else c.out))
  /-- the terminal count, at which the operation stops -/
  | stop (w : Word) (hcfg : c.cfg = true) (hrun : c.run = true) (hbc : c.bc = some w) (hval : val w c.bcd = some 1) :
      PulseEffect c (atRest c)
  /-- the terminal count, at which the count starts again (R124, R133) -/
  | reload (w : Word) (c' : Counter) (hcfg : c.cfg = true) (hrun : c.run = true) (hbc : c.bc = some w)
      (hval : val w c.bcd = some 1) (hmode : c.mode = .m2 ∨ c.mode = .m3) (hs : startCount c .hi = .ok c') :
      PulseEffect c c'

/-- A counted pulse of the modes that stop at the terminal count (R102, R114, R144, R154). -/
theorem stopAtTC_effect {d : Counter} (hcfg : c.cfg = true) (hrun : c.run = true) (hd : countDown c = .ok d)
    {mark : Option Nat} (hmark : lowMark c = mark) : PulseEffect c (stopAtTC (mark.elim d (lowAt · d))) := by
  obtain ⟨w, k, hw, hv, rfl⟩ := countDown_countedTo hd
  have hk : k ≤ maxCount c.bcd := Nat.le_of_succ_le (val_le_max hv)
  have hlow : mark.elim (countedTo c k c.out) (lowAt · (countedTo c k c.out)) =
      countedTo c k (if lowMark c = some k then .lo else c.out) := by
    rw [hmark]
    cases mark <;> simp [lowAt_countedTo hk, eq_comm]
  rw [hlow, stopAtTC_countedTo hk]
  split
  · next h0 => exact .stop w hcfg hrun hw (by rw [hv, h0])
  · next h0 => exact .down w k hcfg hrun hw hv h0

/-- A counted pulse of modes 2 and 3 (R124, R133). -/
theorem reloadAtTC_effect {d : Counter} {j : Nat} (hcfg : c.cfg = true) (hrun : c.run = true)
    (hm : c.mode = .m2 ∨ c.mode = .m3) (hj : lowMark c = some j) (hd : countDown c = .ok d)
    (hr : reloadAtTC (lowAt j d) = .ok c') : PulseEffect c c' := by
  obtain ⟨w, k, hw, hv, rfl⟩ := countDown_countedTo hd
  have hk : k ≤ maxCount c.bcd := Nat.le_of_succ_le (val_le_max hv)
  rw [lowAt_countedTo hk] at hr
  obtain ⟨h0, rfl⟩ | ⟨h0, rfl⟩ | ⟨h0, hs⟩ := reloadAtTC_countedTo hk hrun hr
  · simpa [hj, eq_comm] using PulseEffect.down w k hcfg hrun hw hv h0
  · exact .stop w hcfg hrun hw (by rw [hv, h0])
  · exact .reload w c' hcfg hrun hw (by rw [hv, h0]) hm hs

theorem clockCounter_effect (h : clockCounter c = .ok c') : PulseEffect c c' := by
  unfold clockCounter at h
  split at h
  · next hcfg =>
    cases hm : c.mode <;> simp only [hm] at h
    case m0 =>
      obtain ⟨-, rfl⟩ | ⟨hg, d, hd, rfl⟩ := clock0_ok h
      · exact .ignored
      · exact stopAtTC_effect hcfg (Bool.and_eq_true_iff.1 hg).1 hd (mark := none) (by simp [lowMark, hm])
    case m1 =>
      obtain ⟨-, rfl⟩ | ⟨hr, d, hd, rfl⟩ := clock1_ok h
      · exact .ignored
      · exact stopAtTC_effect hcfg hr hd (mark := none) (by simp [lowMark, hm])
    case m2 =>
      obtain ⟨-, rfl⟩ | ⟨hr, d, hd, hre⟩ := clock2_ok h
      · exact .ignored
      · exact reloadAtTC_effect hcfg hr (.inl hm) (by simp [lowMark, hm]) hd hre
    case m3 =>
      obtain ⟨-, rfl⟩ | ⟨hr, d, hd, hre⟩ := clock3_ok h
      · exact .ignored
      · exact reloadAtTC_effect hcfg hr (.inr hm) (by simp [lowMark, hm]) hd hre
    case m4 =>
      obtain ⟨-, rfl⟩ | ⟨hg, d, hd, rfl⟩ := clock4_ok h
      · exact .ignored
      · exact stopAtTC_effect hcfg (Bool.and_eq_true_iff.1 hg).1 hd (mark := some 1) (by simp [lowMark, hm])
    case m5 =>
      obtain ⟨-, rfl⟩ | ⟨hr, d, hd, rfl⟩ := clock5_ok h
      · exact .ignored
      · exact stopAtTC_effect hcfg hr hd (mark := some 1) (by simp [lowMark, hm])
  · cases h; exact .ignored

end Sys2Proof.Machine

/-! The invariant of the machine: what each act keeps of the registers, of the outputs and of the captured value (R14 to
R20, R28, R82, R104, R115, R124, R133, R144, R154). -/

namespace Sys2Proof.Machine

variable {c c' : Counter}

/-! ## The outputs, by whether a count is in progress -/

/-- What the output says of a running count that stands for `k`: it is 0 in mode 1, and in modes 2 to 5 it is 0 exactly
from the mark of the mode on. -/
def RunningOutput (c : Counter) (k : Nat) : Prop :=
  (c.mode = .m1 → c.out = .lo) ∧ ∀ j, lowMark c = some j → (c.out = .lo ↔ k ≤ j) ∧ 1 ≤ j

/-- What the output says where no count is in progress. -/
def StoppedOutput (c : Counter) : Prop :=
  if c.mode = .m0 then c.out = (if c.bc = none then .lo else .hi) else c.out ≠ .lo

theorem outputInv_running {w : Word} {k : Nat} (hr : c.run = true) (hb : c.bc = some w)
    (hv : val w c.bcd = some (k + 1)) : OutputInv c ↔ (c.cfg = true → RunningOutput c (k + 1)) := by
  have hone : countIs c 1 = true ↔ k + 1 ≤ 1 := by simp [countIs, hb, hv]
  have hmost : countAtMost c c.half ↔ k + 1 ≤ c.half := by simp [countAtMost, hb, hv]
  constructor
  · intro h hc
    refine ⟨fun hm => (h.mode1 hc hm).2 hr, ?_⟩
    cases hm : c.mode with
    | m0 => simp [lowMark, hm]
    | m1 => simp [lowMark, hm]
    | m2 => simpa [lowMark, hm, hr, hone] using h.mode2 hc hm
    | m3 => simpa [lowMark, hm, hr, hmost, h.mode3Half hc hm hr] using h.mode3 hc hm
    | m4 => simpa [lowMark, hm, hr, hone] using h.mode4 hc hm
    | m5 => simpa [lowMark, hm, hr, hone] using h.mode5 hc hm
  · intro h
    have mark : ∀ {j}, lowMark c = some j → c.cfg = true → (c.out = .lo ↔ k + 1 ≤ j) ∧ 1 ≤ j :=
      fun hj hc => (h hc).2 _ hj
    exact {
      mode0Fresh := by simp [hb]
      mode0Done := by simp [hr]
      mode1 := fun hc hm => by simp [hr, (h hc).1 hm]
      mode2 := fun hc hm => by simp only [hr, hone, mark (j := 1) (by simp [lowMark, hm]) hc, true_and]
      mode3 := fun hc hm => by simp only [hr, hmost, mark (j := c.half) (by simp [lowMark, hm]) hc, true_and]
      mode3Half := fun hc hm _ => (mark (by simp [lowMark, hm]) hc).2
      mode4 := fun hc hm => by simp only [hr, hone, mark (j := 1) (by simp [lowMark, hm]) hc, true_and]
      mode5 := fun hc hm => by simp only [hr, hone, mark (j := 1) (by simp [lowMark, hm]) hc, true_and] }

theorem outputInv_stopped (hr : c.run = false) : OutputInv c ↔ (c.cfg = true → StoppedOutput c) := by
  constructor
  · intro h hc
    unfold StoppedOutput
    cases hm : c.mode with
    | m0 =>
      by_cases hb : c.bc = none
      · simpa [hb] using h.mode0Fresh hc hm hb
      · simpa [hb] using h.mode0Done hc hm hb hr
    | m1 => simp [h.mode1 hc hm, hr]
    | m2 => simp [h.mode2 hc hm, hr]
    | m3 => simp [h.mode3 hc hm, hr]
    | m4 => simp [h.mode4 hc hm, hr]
    | m5 => simp [h.mode5 hc hm, hr]
  · intro h
    have rest : c.cfg = true → c.mode ≠ .m0 → c.out ≠ .lo := fun hc hm => by simpa [StoppedOutput, hm] using h hc
    exact {
      mode0Fresh := fun hc hm hb => by simpa [StoppedOutput, hm, hb] using h hc
      mode0Done := fun hc hm hb _ => by simpa [StoppedOutput, hm, hb] using h hc
      mode1 := fun hc hm => by simp [hr, rest hc, hm]
      mode2 := fun hc hm => by simp [hr, rest hc, hm]
      mode3 := fun hc hm => by simp [hr, rest hc, hm]
      mode3Half := by simp [hr]
      mode4 := fun hc hm => by simp [hr, rest hc, hm]
      mode5 := fun hc hm => by simp [hr, rest hc, hm] }

/-! ## A counter never set up -/

theorem counterInv_unset (hc : c.cfg = false) (ho : c.out = .z) (hr : c.run = false) (hb : c.bc = none)
    (hl : c.crl = none) (hm : c.crm = none) (hh : c.half ≤ 32767) : CounterInv c where
  unset := fun _ => ⟨ho, hr, hb, hl, hm⟩
  driven := by simp [hc]
  oneByte := by simp [hc]
  legal := by simp [loadedCount_eq_some, hm]
  running := by simp [hr]
  stopped := fun _ => .inl hb
  halfBound := hh

theorem outputInv_unset (hc : c.cfg = false) : OutputInv c := by
  constructor <;> simp [hc]

/-! ## What the writes of single components keep -/

theorem CounterInv.withCount (h : CounterInv c) (hc : c.cfg = true) {bc : Option Word} {run : Bool} {half : Nat}
    {out : OutPin} (hout : out ≠ .z) (hrun : run = true → ∃ w k, bc = some w ∧ val w c.bcd = some (k + 1))
    (hstop : run = false → bc = none ∨ bc = some 0#16) (hhalf : half ≤ 32767) :
    CounterInv { c with bc := bc, run := run, half := half, out := out } where
  unset := by simp [hc]
  driven := fun _ => hout
  oneByte := h.oneByte
  legal := h.legal
  running := hrun
  stopped := hstop
  halfBound := hhalf

theorem CounterInv.withRegister (h : CounterInv c) (hc : c.cfg = true) {crl crm : Option Byte} {wph : Phase}
    (hone : c.rw ≠ .lsms → wph = .ls)
    (hlegal : ∀ w, loadedCount { c with crl := crl, crm := crm, wph := wph } = some w →
      checkCount w c.bcd c.mode = .ok ()) :
    CounterInv { c with crl := crl, crm := crm, wph := wph } where
  unset := by simp [hc]
  driven := h.driven
  oneByte := fun _ hrw => ⟨hone hrw, (h.oneByte hc hrw).2⟩
  legal := hlegal
  running := h.running
  stopped := h.stopped
  halfBound := h.halfBound

theorem CounterInv.withGate (h : CounterInv c) (v : Bool) : CounterInv { c with gate := v } :=
  ⟨h.unset, h.driven, h.oneByte, h.legal, h.running, h.stopped, h.halfBound⟩

theorem CounterInv.withReadPhase (h : CounterInv c) (hrw : c.rw = .lsms) (p : Phase) :
    CounterInv { c with rph := p } :=
  ⟨h.unset, h.driven, fun _ hne => absurd hrw hne, h.legal, h.running, h.stopped, h.halfBound⟩

/-- The outputs speak of the count alone: not of the counter register, the phases or the gate. -/
theorem OutputInv.withOthers (h : OutputInv c) (crl crm : Option Byte) (wph rph : Phase) (gate : Bool) :
    OutputInv { c with crl := crl, crm := crm, wph := wph, rph := rph, gate := gate } :=
  ⟨h.mode0Fresh, h.mode0Done, h.mode1, h.mode2, h.mode3, h.mode3Half, h.mode4, h.mode5⟩

/-! ## Mode setting (R61) -/

theorem setUp_counterInv (rw : RW) (m : Mode) (bcd : Bool) (h : CounterInv c) : CounterInv (setUp rw m bcd c) where
  unset := nofun
  driven := fun _ => by cases m <;> simp [setUp, initialOut]
  oneByte := fun _ _ => ⟨rfl, rfl⟩
  legal := nofun
  running := nofun
  stopped := fun _ => .inl rfl
  halfBound := h.halfBound

theorem setUp_outputInv (rw : RW) (m : Mode) (bcd : Bool) (c : Counter) : OutputInv (setUp rw m bcd c) :=
  (outputInv_stopped rfl).2 fun _ => by cases m <;> simp [StoppedOutput, setUp, initialOut]

/-! ## Starting a count -/

theorem started_counterInv {w : Word} {k : Nat} {o : OutPin} (h : CounterInv c) (hc : c.cfg = true) (ho : o ≠ .z)
    (hk : val w c.bcd = some (k + 1)) : CounterInv (started c w (k + 1) o) := by
  have bound : (k + 1) / 2 ≤ 32767 := by
    have := val_le_max hk
    cases hb : c.bcd <;> simp [maxCount, hb] at this <;> omega
  refine h.withCount hc ho (fun _ => ⟨w, k, rfl, hk⟩) nofun ?_
  split
  · exact bound
  · exact h.halfBound

/-- A legal count starts above the mark at which the output falls, which is at least 1 (R82). -/
theorem lowMark_started {w : Word} {k j : Nat} {o : OutPin} (hone : k = 0 → c.mode = .m0 ∨ c.mode = .m1)
    (hj : lowMark (started c w (k + 1) o) = some j) : 1 ≤ j ∧ j ≤ k := by
  cases hm : c.mode <;> simp [lowMark, started, hm] at hj hone <;> omega

theorem StartLevel.hi_of_lowMark {o : OutPin} {j : Nat} (h : StartLevel c.mode o) (hj : lowMark c = some j) :
    o = .hi := by
  cases hm : c.mode <;> simp_all [StartLevel, lowMark]

theorem started_outputInv {w : Word} {k : Nat} {o : OutPin} (ho : StartLevel c.mode o)
    (hk : val w c.bcd = some (k + 1)) (hone : k = 0 → c.mode = .m0 ∨ c.mode = .m1) :
    OutputInv (started c w (k + 1) o) := by
  refine (outputInv_running (c := started c w (k + 1) o) rfl rfl hk).2 fun _ => ⟨fun hm => ?_, fun j hj => ?_⟩
  · rw [show c.mode = .m1 from hm] at ho
    exact ho
  · obtain ⟨hj1, hjk⟩ := lowMark_started hone hj
    have hhi : (started c w (k + 1) o).out = .hi := StartLevel.hi_of_lowMark (c := started c w (k + 1) o) ho hj
    exact ⟨by simp [hhi, hjk], hj1⟩

theorem startCount_counterInv {o : OutPin} (h : CounterInv c) (hc : c.cfg = true) (ho : o ≠ .z)
    (hs : startCount c o = .ok c') : CounterInv c' := by
  obtain ⟨w, k, hk, -, rfl⟩ := startCount_legal h.legal hs
  exact started_counterInv h hc ho hk

theorem startCount_outputInv {o : OutPin} (h : CounterInv c) (ho : StartLevel c.mode o)
    (hs : startCount c o = .ok c') : OutputInv c' := by
  obtain ⟨w, k, hk, hone, rfl⟩ := startCount_legal h.legal hs
  exact started_outputInv ho hk hone

/-! ## Loads -/

/-- The counter register of a load that completes is legal (R79, R82). -/
theorem loadComplete_legal {p : Mode0Reload} {level : Bool} (h : loadComplete p level c = .ok c') :
    ∀ w, loadedCount c = some w → checkCount w c.bcd c.mode = .ok () := by
  obtain ⟨w, hw, hk, -⟩ := loadComplete_ok h
  intro w' hw'
  cases hw.symm.trans hw'
  exact hk

/-- A write to the counter port stores bytes, which keeps the invariant, and then starts a count or does not. -/
theorem writeByte_started {b : Board} {level : Bool} {d : Byte} (h : CounterInv c) (hc : c.cfg = true)
    (hw : writeByte b level d c = .ok c') :
    ∃ crl crm wph e, e = { c with crl := crl, crm := crm, wph := wph } ∧ CounterInv e ∧
      (c' = e ∨ ∃ o, StartLevel e.mode o ∧ startCount e o = .ok c') := by
  obtain ⟨crl, crm, wph, hwph, hw'⟩ := writeByte_registers hw
  have hone : c.rw ≠ .lsms → wph = .ls := fun hrw => (hwph hrw).trans (h.oneByte hc hrw).1
  refine ⟨crl, crm, wph, _, rfl, ?_⟩
  obtain ⟨rfl, rfl⟩ | hl := hw'
  · exact ⟨h.withRegister hc hone nofun, .inl rfl⟩
  · have hstored := h.withRegister hc hone (loadComplete_legal hl)
    exact ⟨hstored, loadComplete_started (hstored.driven hc) hl⟩

theorem writeByte_counterInv {b : Board} {level : Bool} {d : Byte} (h : CounterInv c) (hc : c.cfg = true)
    (hw : writeByte b level d c = .ok c') : CounterInv c' := by
  obtain ⟨crl, crm, wph, e, rfl, he, rfl | ⟨o, ho, hs⟩⟩ := writeByte_started h hc hw
  · exact he
  · exact startCount_counterInv he hc ho.ne_z hs

theorem writeByte_outputInv {b : Board} {level : Bool} {d : Byte} (h : CounterInv c) (ho : OutputInv c)
    (hc : c.cfg = true) (hw : writeByte b level d c = .ok c') : OutputInv c' := by
  obtain ⟨crl, crm, wph, e, rfl, he, rfl | ⟨o, ho', hs⟩⟩ := writeByte_started h hc hw
  · exact ho.withOthers _ _ _ _ _
  · exact startCount_outputInv he ho' hs

/-! ## Pulses -/

theorem clockCounter_counterInv (h : CounterInv c) (hp : clockCounter c = .ok c') : CounterInv c' := by
  cases clockCounter_effect hp with
  | ignored => exact h
  | down w k hcfg hrun hbc hval hk =>
    obtain ⟨j, rfl⟩ := Nat.exists_eq_succ_of_ne_zero hk
    refine h.withCount hcfg ?_ (fun _ => ⟨_, j, rfl, val_after_countDown hval⟩) (by simp [hrun]) h.halfBound
    split
    · simp
    · exact h.driven hcfg
  | stop w hcfg hrun hbc hval => exact h.withCount hcfg (by simp) nofun (fun _ => .inr rfl) h.halfBound
  | reload w c' hcfg hrun hbc hval hmode hs => exact startCount_counterInv h hcfg (by simp) hs

/-- One count down takes the output to 0 exactly at the mark of the mode. -/
theorem RunningOutput.countedTo {k : Nat} (h : RunningOutput c (k + 1)) :
    RunningOutput (countedTo c k (if lowMark c = some k then .lo else c.out)) k := by
  obtain ⟨hlow, hmark⟩ := h
  refine ⟨fun (hm : c.mode = .m1) => ?_, fun j (hj : lowMark c = some j) => ?_⟩
  · simp [Machine.countedTo, lowMark, hm, hlow hm]
  · obtain ⟨hiff, hj1⟩ := hmark j hj
    refine ⟨?_, hj1⟩
    by_cases hkj : j = k
    · simp [Machine.countedTo, hj, hkj]
    · simp only [Machine.countedTo, hj, Option.some.injEq, hkj, if_false, hiff]
      omega

theorem clockCounter_outputInv (h : CounterInv c) (ho : OutputInv c) (hp : clockCounter c = .ok c') :
    OutputInv c' := by
  cases clockCounter_effect hp with
  | ignored => exact ho
  | down w k hcfg hrun hbc hval hk =>
    have hbefore := (outputInv_running hrun hbc hval).1 ho hcfg
    obtain ⟨j, rfl⟩ := Nat.exists_eq_succ_of_ne_zero hk
    exact (outputInv_running (c := countedTo c (j + 1) _) hrun rfl (val_after_countDown hval)).2 fun _ =>
      hbefore.countedTo
  | stop w hcfg hrun hbc hval => exact (outputInv_stopped rfl).2 fun _ => by simp [StoppedOutput, atRest]
  | reload w c' hcfg hrun hbc hval hmode hs =>
    have hlevel : StartLevel c.mode .hi := by obtain hm | hm := hmode <;> rw [hm] <;> rfl
    exact startCount_outputInv h hlevel hs

/-! ## Gate changes -/

theorem gateCounter_counterInv {v : Bool} (h : CounterInv c) (hg : gateCounter v c = .ok c') : CounterInv c' := by
  obtain ⟨-, rfl⟩ | rfl | ⟨-, -, hc, h0, -, hs⟩ := gateCounter_ok hg
  · exact h
  · exact h.withGate v
  · exact startCount_counterInv (h.withGate true) hc (startLevel_trigger h0).ne_z hs

theorem gateCounter_outputInv {v : Bool} (h : CounterInv c) (ho : OutputInv c) (hg : gateCounter v c = .ok c') :
    OutputInv c' := by
  obtain ⟨-, rfl⟩ | rfl | ⟨-, -, -, h0, -, hs⟩ := gateCounter_ok hg
  · exact ho
  · exact ho.withOthers _ _ _ _ _
  · exact startCount_outputInv (h.withGate true) (startLevel_trigger h0) hs

/-! ## Every act on one counter -/

/-- What an act on the device is to one counter. -/
inductive CounterAct (c : Counter) : Counter → Prop where
  | same : CounterAct c c
  | setUp (rw : RW) (m : Mode) (bcd : Bool) : CounterAct c (setUp rw m bcd c)
  | write (b : Board) (level : Bool) (d : Byte) (c' : Counter) (hcfg : c.cfg = true)
      (hc : writeByte b level d c = .ok c') : CounterAct c c'
  | turn (p : Phase) (hrw : c.rw = .lsms) : CounterAct c { c with rph := p }
  | pulse (c' : Counter) (hc : clockCounter c = .ok c') : CounterAct c c'
  | gate (v : Bool) (c' : Counter) (hc : gateCounter v c = .ok c') : CounterAct c c'

theorem CounterAct.setCtr {s : State} {n m : CtrIdx} (h : CounterAct (s.ctr n) c) :
    CounterAct (s.ctr m) ((s.setCtr n c).ctr m) := by
  rw [State.ctr_setCtr]
  split
  · next e => exact e ▸ h
  · exact .same

theorem DeviceAct.counterAct {bus pin : Option CtrIdx} {s u : State} (h : DeviceAct bus pin s u) (m : CtrIdx) :
    CounterAct (s.ctr m) (u.ctr m) := by
  cases h with
  | idle => exact .same
  | modeSet n rw mode bcd hn hadm => exact CounterAct.setCtr (.setUp rw mode bcd)
  | capture n hn hcfg hlatch hmid => rw [State.ctr_withLatch]; exact .same
  | write n d level c hn hcfg hrph hhalf hc => exact CounterAct.setCtr (.write _ _ _ _ hcfg hc)
  | turn n p hn hcfg hwph hlatch hrw => exact CounterAct.setCtr (.turn p hrw)
  | firstRead n v hn hcfg hwph hlatch => rw [State.ctr_withLatch]; exact .same
  | secondRead n v hn hcfg hwph hlatch => rw [State.ctr_withLatch]; exact .same
  | pulse n c hn hc => exact CounterAct.setCtr (.pulse _ hc)
  | gate n v c hn hc => exact CounterAct.setCtr (.gate v _ hc)

theorem CounterAct.counterInv (h : CounterAct c c') (hi : CounterInv c) : CounterInv c' := by
  cases h with
  | same => exact hi
  | setUp rw m bcd => exact setUp_counterInv rw m bcd hi
  | write b level d _ hcfg hc => exact writeByte_counterInv hi hcfg hc
  | turn p hrw => exact hi.withReadPhase hrw p
  | pulse _ hc => exact clockCounter_counterInv hi hc
  | gate v _ hc => exact gateCounter_counterInv hi hc

theorem CounterAct.outputInv (h : CounterAct c c') (hi : CounterInv c) (ho : OutputInv c) : OutputInv c' := by
  cases h with
  | same => exact ho
  | setUp rw m bcd => exact setUp_outputInv rw m bcd c
  | write b level d _ hcfg hc => exact writeByte_outputInv hi ho hcfg hc
  | turn p hrw => exact ho.withOthers _ _ _ _ _
  | pulse _ hc => exact clockCounter_outputInv hi ho hc
  | gate v _ hc => exact gateCounter_outputInv hi ho hc

/-- Nothing takes back that a counter has been set up (R12). -/
theorem CounterAct.cfg_kept (h : CounterAct c c') (hc : c.cfg = true) : c'.cfg = true := by
  cases h with
  | same => exact hc
  | setUp rw m bcd => rfl
  | write b level d _ hcfg hw => exact (writeByte_setting hw).1.trans hc
  | turn p hrw => exact hc
  | pulse _ hp => exact (clockCounter_setting hp).1.1.trans hc
  | gate v _ hg => exact (gateCounter_setting hg).1.1.trans hc

/-! ## The captured value (R20, R89) -/

/-- What a captured value asks of its counter, by the bytes still to be read. -/
def LatchedCounter (left : BytesLeft) (c : Counter) : Prop :=
  c.cfg = true ∧ c.rph = .ls ∧ (left = .one → c.wph = .ls)

theorem midSequence_eq_false : midSequence c = false ↔ c.wph = .ls ∧ c.rph = .ls := by
  cases hw : c.wph <;> cases hr : c.rph <;> simp [midSequence, hw, hr]

theorem LatchedCounter.of_setting {left : BytesLeft} (h : LatchedCounter left c) (hs : SameSetting c c') :
    LatchedCounter left c' := by
  obtain ⟨hcfg, -, -, -, -, -, hwph, hrph⟩ := hs
  obtain ⟨h1, h2, h3⟩ := h
  exact ⟨hcfg.trans h1, hrph.trans h2, fun hl => hwph.trans (h3 hl)⟩

theorem LatchInv.setCtr {s : State} {n : CtrIdx} (h : LatchInv s)
    (hc : ∀ x, s.latch = some x → x.counter = n → LatchedCounter x.left c) : LatchInv (s.setCtr n c) := by
  intro x hx
  rw [State.setCtr_latch] at hx
  rw [State.ctr_setCtr]
  split
  · next e => exact hc x hx e
  · exact h x hx

theorem DeviceAct.latchInv {bus pin : Option CtrIdx} {s u : State} (h : DeviceAct bus pin s u) (hi : LatchInv s) :
    LatchInv u := by
  cases h with
  | idle => exact hi
  | modeSet n rw m bcd hn hadm => exact hi.setCtr fun x _ _ => ⟨rfl, rfl, fun _ => rfl⟩
  | capture n hn hcfg hlatch hmid =>
    intro x hx
    cases hx
    rw [State.ctr_withLatch]
    exact ⟨hcfg, (midSequence_eq_false.1 hmid).2, nofun⟩
  | write n d level c hn hcfg hrph hhalf hc =>
    refine hi.setCtr fun x hx hxn => ?_
    obtain ⟨hcfg', -, -, -, hrph', -⟩ := writeByte_setting hc
    refine ⟨hcfg'.trans hcfg, hrph'.trans hrph, fun hone => ?_⟩
    simp [latchHalfRead, hx, hxn, hone] at hhalf
  | turn n p hn hcfg hwph hlatch hrw =>
    exact hi.setCtr fun x hx hxn => by simp [latchIsOf, hx, hxn] at hlatch
  | firstRead n v hn hcfg hwph hlatch =>
    intro x hx
    cases hx
    rw [State.ctr_withLatch]
    exact ⟨hcfg, (hi _ hlatch).2.1, fun _ => hwph⟩
  | secondRead n v hn hcfg hwph hlatch => nofun
  | pulse n c hn hc =>
    exact hi.setCtr fun x hx hxn => LatchedCounter.of_setting (hxn ▸ hi x hx) (clockCounter_setting hc).1
  | gate n v c hn hc =>
    exact hi.setCtr fun x hx hxn => LatchedCounter.of_setting (hxn ▸ hi x hx) (gateCounter_setting hc).1

/-! ## The whole machine -/

theorem DeviceAct.inv {bus pin : Option CtrIdx} {s u : State} (h : DeviceAct bus pin s u) (hi : Inv s) : Inv u where
  counters := fun n => (h.counterAct n).counterInv (hi.counters n)
  outputs := fun n => (h.counterAct n).outputInv (hi.counters n) (hi.outputs n)
  latch := h.latchInv hi.latch
  memory := h.mem_eq ▸ hi.memory

theorem SameDevice.inv {s t : State} (h : SameDevice s t) (hi : Inv s) : Inv t where
  counters := fun n => h.ctr n ▸ hi.counters n
  outputs := fun n => h.ctr n ▸ hi.outputs n
  latch := fun x hx => h.ctr x.counter ▸ hi.latch x (h.latch ▸ hx)
  memory := h.mem ▸ hi.memory

/-- What a step does to the device: it takes the head off the queue, and then makes one act. -/
theorem step_effect {s t : State} (h : step s = .next t) :
    ∃ bus pin u, DeviceAct bus pin s.popInput u ∧ SameDevice u t := by
  obtain ⟨i, hi⟩ := step_next h
  obtain ⟨u, hu, hut⟩ := exec_effect hi
  exact ⟨_, _, u, hu, hut⟩

/-- Settles O57: a step is one act on the device (`step_effect`), which keeps the invariant (`DeviceAct.inv`). -/
theorem stepKeepsInv : Obligations.StepKeepsInv := by
  intro s t hi h
  obtain ⟨bus, pin, u, hu, hut⟩ := step_effect h
  exact hut.inv (hu.inv ((SameDevice.popInput s).inv hi))

/-- Settles O54: an act keeps `CFG` and the invariant of the counter, which drives the output of a counter that is set
up and of no other. -/
theorem setUpIsForever : Obligations.SetUpIsForever := by
  intro s t n hi h
  obtain ⟨bus, pin, u, hu, hut⟩ := step_effect h
  have act : CounterAct (s.ctr n) (t.ctr n) := by
    rw [hut.ctr, ← (SameDevice.popInput s).ctr]
    exact hu.counterAct n
  have hit := act.counterInv hi
  refine ⟨fun hc => ⟨act.cfg_kept hc, hit.driven (act.cfg_kept hc)⟩, fun hout => ?_⟩
  by_contra hc
  exact hout (hit.unset (Bool.eq_false_of_not_eq_true hc)).1

/-! ## Power-on -/

theorem inv_powerOn (b : Board) (g0 g1 g2 : Bool) : Inv (State.powerOn b g0 g1 g2) where
  counters := fun n => by cases n <;> exact counterInv_unset rfl rfl rfl rfl rfl rfl (Nat.zero_le _)
  outputs := fun n => by cases n <;> exact outputInv_unset rfl
  latch := nofun
  memory := rfl

/-- Settles O55. -/
theorem powerOn : Obligations.PowerOn := by
  intro b g0 g1 g2
  refine ⟨inv_powerOn b g0 g1 g2, rfl, fun n => ?_, rfl, rfl, rfl⟩
  cases n <;> exact ⟨rfl, rfl, rfl, rfl, rfl, rfl⟩

/-- Settles O56: the state after reset is a power-on state. -/
theorem resetInv : Obligations.ResetInv := inv_powerOn Board.default true true true

end Sys2Proof.Machine

/-! The bus operations by what they carry: the control word, the byte of a counter, or nothing (R32 to R34, R60). -/

namespace Sys2Proof.Machine

/-! ## The ports -/

theorem portWrite_control (d : Byte) (s : State) : portWrite 3#2 d s = controlWrite d s := rfl

theorem portWrite_counter (n : CtrIdx) (d : Byte) (s : State) : portWrite (ctrBits n) d s = counterWrite n d s := by
  simp [portWrite]

theorem portRead_control (s : State) : portRead 3#2 s = busNop s := rfl

theorem portRead_counter (n : CtrIdx) (s : State) : portRead (ctrBits n) s = counterRead n s := by
  simp [portRead]

/-! ## Control words -/

theorem exec_modeInstr (m : Mode) (n : CtrIdx) (rw : RW) (bcd : Bool) (s : State) :
    exec (modeInstr m n rw bcd) s = modeSet n rw m bcd s := by
  cases m <;> rfl

/-- `ControlWrite` (R60) and `ControlDecode` (R53) make the same tests in the same order. -/
theorem exec_decodeCw (d : Byte) (s : State) : exec (decodeCw d) s = controlWrite d s := by
  unfold decodeCw controlWrite
  cases ctrOfBits (cwSC d) with
  | none => rfl
  | some n =>
    cases rwOfBits (cwRW d) with
    | none => rfl
    | some rw =>
      cases modeOfBits (cwM d) with
      | none => rfl
      | some m => exact exec_modeInstr m n rw (cwBCD d) s

/-! ## The rows of Table 25.1 -/

theorem exec_busWrCtl (d : Byte) (s : State) : exec (.busWrCtl d) s = exec (decodeCw d) s :=
  (portWrite_control d s).trans (exec_decodeCw d s).symm

theorem exec_busWriteOf (n : CtrIdx) (d : Byte) (s : State) : exec (busWriteOf n d) s = exec (.cntWr n d) s := by
  have row : exec (busWriteOf n d) s = portWrite (ctrBits n) d s := by cases n <;> rfl
  exact row.trans (portWrite_counter n d s)

theorem exec_busReadOf (n : CtrIdx) (s : State) : exec (busReadOf n) s = exec (.cntRd n) s := by
  have row : exec (busReadOf n) s = portRead (ctrBits n) s := by cases n <;> rfl
  exact row.trans (portRead_counter n s)

/-- Settles O10: each bus row selects its port, and the port runs what the row carries. -/
theorem busOperationsArePortOperations : Obligations.BusOperationsArePortOperations := by
  intro s d
  refine ⟨fun i hi => ?_, fun n => ⟨exec_busWriteOf n d s, exec_busReadOf n s⟩⟩
  obtain rfl : decodeCw d = i := Except.ok.inj hi
  exact exec_busWrCtl d s

/-- Settles O9: the three rows run `busNop`, which lets go of D7-0 and does nothing else; the read of the control port
comes to it through `portRead`. -/
theorem noOperationStates : Obligations.NoOperationStates := by
  intro s pins
  have idle : busNop s = .next { s with dataPins := .z } := rfl
  have readControl : exec .busRdCtlNop s = busNop s := portRead_control s
  have deselected : exec (.busNopDeselected pins) s = busNop s := rfl
  have notStrobed : exec (.busNopIdle pins) s = busNop s := rfl
  exact ⟨readControl.trans idle, deselected.trans idle, notStrobed.trans idle⟩

end Sys2Proof.Machine

/-! The decoder and the encoder agree (R45 to R58): the fields of a control word by its number, the rows of Table 25.1
by their pins, and the host bytes. -/

namespace Sys2Proof.Machine

/-! ## Fields side by side (R47, R48) -/

theorem toNat_append_eq_add {m k : Nat} (x : BitVec m) (y : BitVec k) :
    (x ++ y).toNat = x.toNat * 2 ^ k + y.toNat := by
  rw [BitVec.toNat_append, ← Nat.shiftLeft_add_eq_or_of_lt y.isLt, Nat.shiftLeft_eq]

section Fields
variable (w : Byte)

theorem cwSC_toNat : (cwSC w).toNat = w.toNat / 64 := by
  simp only [cwSC, BitVec.extractLsb'_toNat, Nat.shiftRight_eq_div_pow]
  omega

theorem cwRW_toNat : (cwRW w).toNat = w.toNat / 16 % 4 := by
  simp only [cwRW, BitVec.extractLsb'_toNat, Nat.shiftRight_eq_div_pow]

theorem cwM_toNat : (cwM w).toNat = w.toNat / 2 % 8 := by
  simp only [cwM, BitVec.extractLsb'_toNat, Nat.shiftRight_eq_div_pow]

theorem cwLow_toNat : (cwLow w).toNat = w.toNat % 16 := by
  simp [cwLow]

theorem cwBCD_eq : cwBCD w = (w.toNat % 2 == 1) := Nat.testBit_zero w.toNat

theorem cwBCD_toNat : (cwBCD w).toNat = w.toNat % 2 := by
  rw [cwBCD_eq]
  obtain even | odd := Nat.mod_two_eq_zero_or_one w.toNat
  · rw [even]; rfl
  · rw [odd]; rfl

/-- The fields of a read-on-the-fly command (R68). -/
theorem word_of_low : cwSC w ++ cwRW w ++ cwLow w = w := by
  apply BitVec.eq_of_toNat_eq
  rw [toNat_append_eq_add, toNat_append_eq_add, cwSC_toNat, cwRW_toNat, cwLow_toNat]
  omega

/-- The fields of a mode-setting word (R48). -/
theorem word_of_fields : cwSC w ++ cwRW w ++ cwM w ++ BitVec.ofBool (cwBCD w) = w := by
  apply BitVec.eq_of_toNat_eq
  rw [toNat_append_eq_add, toNat_append_eq_add, toNat_append_eq_add, cwSC_toNat, cwRW_toNat, cwM_toNat,
    BitVec.toNat_ofBool, cwBCD_toNat]
  omega

end Fields

theorem ctrOfBits_eq_some {b : BitVec 2} {n : CtrIdx} : ctrOfBits b = some n ↔ b = ctrBits n := by
  revert b; cases n <;> decide

theorem rwOfBits_eq_some {b : BitVec 2} {rw : RW} : rwOfBits b = some rw ↔ b = rwBits rw := by
  revert b; cases rw <;> decide

theorem modeOfBits_eq_some {b : BitVec 3} {m : Mode} : modeOfBits b = some m ↔ b = modeBits m := by
  revert b; cases m <;> decide

theorem modeOfBits_eq_none_iff_le {b : BitVec 3} : modeOfBits b = none ↔ 6 ≤ b.toNat := by revert b; decide

/-! ## What an encoding stands for -/

/-- `i` is well-formed and `x` is its encoding. -/
def Encodes (i : Instr) (x : Encoding) : Prop := WellFormed i = true ∧ encode i = x

theorem Encodes.decode {i : Instr} {x : Encoding} (h : Encodes i x) : decode x = .ok i := h.2 ▸ decode_encode h.1

theorem wellFormed_illegalSc {w : Byte} : WellFormed (.cwIllegalSc w) = true ↔ cwSC w = 3#2 := beq_iff_eq

theorem wellFormed_illegalMode {w : Byte} :
    WellFormed (.cwIllegalMode w) = true ↔ cwSC w ≠ 3#2 ∧ cwRW w ≠ 0#2 ∧ modeOfBits (cwM w) = none := by
  rw [modeOfBits_eq_none, extractLsb'_cwM]
  simp [WellFormed, cwSC, cwRW, and_assoc]

theorem encodes_modeInstr (n : CtrIdx) (rw : RW) (m : Mode) (bcd : Bool) :
    Encodes (modeInstr m n rw bcd) (.wire (.cw (encodeModeWord n rw m bcd))) := by
  cases m <;> exact ⟨rfl, rfl⟩

/-! ## Control words, in the order of the tests of R53 -/

section ControlWord
variable {w : Byte} {n : CtrIdx} {rw : RW} {m : Mode}

theorem encodes_illegalSc (hSC : cwSC w = 3#2) : Encodes (.cwIllegalSc w) (.wire (.cw w)) :=
  ⟨wellFormed_illegalSc.2 hSC, rfl⟩

theorem encodes_latch (hSC : cwSC w = ctrBits n) (hRW : cwRW w = 0#2) :
    Encodes (.cwLatch n (cwLow w)) (.wire (.cw w)) := by
  have hw : ctrBits n ++ 0#2 ++ cwLow w = w := hSC ▸ hRW ▸ word_of_low w
  exact ⟨rfl, congrArg (Encoding.wire ∘ Wire.cw) hw⟩

theorem encodes_illegalMode (hSC : cwSC w = ctrBits n) (hRW : cwRW w = rwBits rw) (hM : modeOfBits (cwM w) = none) :
    Encodes (.cwIllegalMode w) (.wire (.cw w)) := by
  refine ⟨wellFormed_illegalMode.2 ⟨?_, ?_, hM⟩, rfl⟩
  · rw [hSC]; cases n <;> decide
  · rw [hRW]; cases rw <;> decide

theorem encodes_modeWord (hSC : cwSC w = ctrBits n) (hRW : cwRW w = rwBits rw) (hM : cwM w = modeBits m) :
    Encodes (modeInstr m n rw (cwBCD w)) (.wire (.cw w)) := by
  have hw : encodeModeWord n rw m (cwBCD w) = w := by
    rw [encodeModeWord, ← hSC, ← hRW, ← hM]
    exact word_of_fields w
  have row := encodes_modeInstr n rw m (cwBCD w)
  rwa [hw] at row

/-- The rows of the control word cover all 256 words. -/
theorem exists_encodes_cw (w : Byte) : ∃ i, Encodes i (.wire (.cw w)) := by
  cases hn : ctrOfBits (cwSC w) with
  | none => exact ⟨_, encodes_illegalSc (ctrOfBits_eq_none.1 hn)⟩
  | some n =>
    have hSC := ctrOfBits_eq_some.1 hn
    cases hrw : rwOfBits (cwRW w) with
    | none => exact ⟨_, encodes_latch hSC (rwOfBits_eq_none.1 hrw)⟩
    | some rw =>
      have hRW := rwOfBits_eq_some.1 hrw
      cases hm : modeOfBits (cwM w) with
      | none => exact ⟨_, encodes_illegalMode hSC hRW hm⟩
      | some m => exact ⟨_, encodes_modeWord hSC hRW (modeOfBits_eq_some.1 hm)⟩

/-- What the word stands for is what `decodeCw` answers. -/
theorem Encodes.decodeCw {i : Instr} (h : Encodes i (.wire (.cw w))) : decodeCw w = i := Except.ok.inj h.decode

end ControlWord

/-! ## Bus operations, row by row of Table 25.1 (R45) -/

section BusRows
variable (a : BitVec 2) (rd wr cs : Bool) (d : Byte)

@[simp] theorem encodePins_cs : (encodePins a rd wr cs)[0] = cs := by revert a rd wr cs; decide

@[simp] theorem encodePins_wr : (encodePins a rd wr cs)[1] = wr := by revert a rd wr cs; decide

@[simp] theorem encodePins_rd : (encodePins a rd wr cs)[2] = rd := by revert a rd wr cs; decide

theorem exists_encodePins (pins : BitVec 5) : ∃ a rd wr cs, pins = encodePins a rd wr cs :=
  ⟨pins.extractLsb' 3 2, pins.getLsbD 2, pins.getLsbD 1, pins.getLsbD 0, by revert pins; decide⟩

/-- The pins by their number modulo 8: a write row is RD* = 1, WR* = 0, CS* = 0. -/
theorem encodePins_toNat_mod :
    (encodePins a rd wr cs).toNat % 8 = rd.toNat * 4 + wr.toNat * 2 + cs.toNat := by
  have below : rd.toNat * 4 + wr.toNat * 2 + cs.toNat < 8 := by cases rd <;> cases wr <;> cases cs <;> decide
  simp only [encodePins, toNat_append_eq_add, BitVec.toNat_ofBool]
  omega

/-- A row that carries the pins themselves reads no byte from D7-0. -/
theorem encodes_pinsRow {i : Instr} {pins : BitVec 5}
    (hi : i = .busNopDeselected pins ∨ i = .busNopIdle pins ∨ i = .busRdwrBothLow pins)
    (h : WellFormed i = true) : Encodes (decodeBus pins d) (.wire (.bus pins 0#8)) := by
  rw [decodeBus_pins hi h]
  obtain rfl | rfl | rfl := hi <;> exact ⟨h, rfl⟩

/-- A1 A0 name a counter port or the control port (R30). -/
theorem address_cases : (∃ n, a = ctrBits n) ∨ a = 3#2 := by
  cases ha : ctrOfBits a with
  | none => exact .inr (ctrOfBits_eq_none.1 ha)
  | some n => exact .inl ⟨n, ctrOfBits_eq_some.1 ha⟩

theorem encodes_readRow : Encodes (decodeBus (encodePins a false true false) d)
    (.wire (.bus (encodePins a false true false) 0#8)) := by
  obtain ⟨n, rfl⟩ | rfl := address_cases a
  · cases n <;> exact ⟨rfl, rfl⟩
  · exact ⟨rfl, rfl⟩

theorem encodes_writeRow : Encodes (decodeBus (encodePins a true false false) d)
    (.wire (.bus (encodePins a true false false) d)) := by
  obtain ⟨n, rfl⟩ | rfl := address_cases a
  · cases n <;> exact ⟨rfl, rfl⟩
  · exact ⟨rfl, rfl⟩

/-- The rows cover all 32 pin combinations; the write rows alone keep the byte on D7-0. -/
theorem encodes_decodeBus (pins : BitVec 5) :
    Encodes (decodeBus pins d) (.wire (.bus pins (if pins.toNat % 8 = 4 then d else 0#8))) := by
  obtain ⟨a, rd, wr, cs, rfl⟩ := exists_encodePins pins
  rw [encodePins_toNat_mod]
  match cs, rd, wr with
  | true, rd, wr =>
    rw [if_neg (by cases rd <;> cases wr <;> decide)]
    exact encodes_pinsRow d (.inl rfl) (by simp [WellFormed])
  | false, true, true => exact encodes_pinsRow d (.inr (.inl rfl)) (by simp [WellFormed])
  | false, false, false => exact encodes_pinsRow d (.inr (.inr rfl)) (by simp [WellFormed])
  | false, false, true => exact encodes_readRow a d
  | false, true, false => exact encodes_writeRow a d

end BusRows

/-! ## Host bytes (R57) -/

theorem encodes_of_decodeCode {bytes : List Byte} {i : Instr} (h : decodeCode bytes = .ok i) :
    Encodes i (.code bytes) := by
  obtain ⟨op, rfl, ht⟩ | ⟨op, b, rfl, ht⟩ := decodeCode_ok h
  · simp only [decodeCode] at h
    split_ifs at h with hE hD <;> cases h
    · exact ⟨rfl, hE ▸ rfl⟩
    · exact ⟨rfl, hD ▸ rfl⟩
  · simp only [decodeCode] at h
    split_ifs at h with hMvi hOut hIn <;> cases h
    · exact ⟨rfl, hMvi ▸ rfl⟩
    · exact ⟨rfl, hOut ▸ rfl⟩
    · exact ⟨rfl, hIn ▸ rfl⟩

theorem decodeCode_unknown {op : Byte} (hMvi : op ≠ 0x3E#8) (hOut : op ≠ 0xD3#8) (hIn : op ≠ 0xDB#8)
    (hE : op ≠ 0x5F#8) (hD : op ≠ 0x57#8) : decodeCode [op] = .error (.unknownOpcode op) := by
  simp [decodeCode, takesOperand, hMvi, hOut, hIn, hE, hD]

theorem step_of_decode_error {s : State} {x : Encoding} {e : DecodeError} (hx : nextEncoding s = .ok x)
    (he : decode x = .error e) : step s = .refused (.undecoded e) := by
  simp [step, hx, he]

/-! ## The statements -/

/-- Settles O1. -/
theorem decodeOfEncode : Obligations.DecodeOfEncode := fun _ h => decode_encode h

/-- Settles O2: control words and pins by the rows that cover them (`exists_encodes_cw`, `encodes_decodeBus`), host
bytes by `encodes_of_decodeCode`; the events name their counter by `ctrBits`, which never is 11. -/
theorem encodeOfDecode : Obligations.EncodeOfDecode := by
  refine ⟨fun w => ?_, fun pins d => ⟨_, rfl, encodes_decodeBus d pins⟩, fun bytes i h => encodes_of_decodeCode h,
    fun op => decodeCode_unknown, fun d v x hx => ?_, fun n d v x hx => ?_, fun s x e => step_of_decode_error⟩
  · obtain ⟨i, hi⟩ := exists_encodes_cw w
    exact ⟨i, hi.decode, hi⟩
  · simp only [List.mem_cons, List.not_mem_nil, or_false] at hx
    obtain rfl | rfl | rfl | rfl := hx <;> rfl
  · have event : ∀ i : Instr, WellFormed i = true → encode i = .wire x →
        ∃ i, decode (.wire x) = .ok i ∧ WellFormed i = true ∧ encode i = .wire x :=
      fun i hwf henc => ⟨i, Encodes.decode ⟨hwf, henc⟩, hwf, henc⟩
    simp only [List.mem_cons, List.not_mem_nil, or_false] at hx
    obtain rfl | rfl | rfl | rfl := hx
    · exact event (.cntWr n d) rfl rfl
    · exact event (.cntRd n) rfl rfl
    · exact event (.clkPulse n) rfl rfl
    · exact event (.gateSet n v) rfl rfl

/-- Settles O3: the numbers are the fields (`cwSC_toNat`, `cwRW_toNat`, `cwM_toNat`), and each clause is a row. -/
theorem controlWordFields : Obligations.ControlWordFields := by
  intro w
  rw [← cwSC_toNat, ← cwRW_toNat, ← cwM_toNat, ← cwBCD_eq, ← cwLow_toNat, BitVec.ofNat_toNat, BitVec.setWidth_eq]
  refine ⟨fun hSC => (encodes_illegalSc (BitVec.eq_of_toNat_eq hSC)).decodeCw, fun n hn => ?_⟩
  have hSC : cwSC w = ctrBits n := BitVec.eq_of_toNat_eq hn
  refine ⟨fun hRW => (encodes_latch hSC (BitVec.eq_of_toNat_eq hRW)).decodeCw, fun rw hrw => ?_⟩
  have hRW : cwRW w = rwBits rw := BitVec.eq_of_toNat_eq hrw
  exact ⟨fun hM => (encodes_illegalMode hSC hRW (modeOfBits_eq_none_iff_le.2 hM)).decodeCw,
    fun m hM => (encodes_modeWord hSC hRW (BitVec.eq_of_toNat_eq hM)).decodeCw⟩

/-- Settles O4: the sum is the value of the fields side by side, and the six example words are the recipe's own. -/
theorem controlWordRecipe : Obligations.ControlWordRecipe := by
  have exampleWord : ∀ m, decode (.wire (.cw (encodeModeWord .c2 .lsms m true))) = .ok (modeInstr m .c2 .lsms true) :=
    fun m => (encodes_modeInstr .c2 .lsms m true).decode
  refine ⟨fun n rw m bcd => ?_, exampleWord .m0, exampleWord .m1, exampleWord .m2, exampleWord .m3,
    exampleWord .m4, exampleWord .m5, fun x => congrArg Except.ok (decodeCw_latch .c2 x)⟩
  simp only [encodeModeWord, toNat_append_eq_add, BitVec.toNat_ofBool]
  omega

/-- Settles O5: the thirteen words, evaluated. -/
theorem writtenOutWords : Obligations.WrittenOutWords :=
  ⟨rfl, rfl, rfl, rfl, rfl, rfl, rfl, rfl, rfl, rfl, rfl, rfl, rfl⟩

end Sys2Proof.Machine

/-! Control words that complete and control words that are refused (R60, R61, R68 to R70). -/

namespace Sys2Proof.Machine

theorem midSequence_eq_true {c : Counter} : midSequence c = true ↔ c.wph = .ms ∨ c.rph = .ms := by
  simp [midSequence]

/-- The data pins are no part of a counter. -/
theorem State.tristate_setCtr (s : State) (n : CtrIdx) (c : Counter) :
    (s.setCtr n c).tristate = s.tristate.setCtr n c := by
  cases n <;> rfl

/-! ## Refusals, in the order of the tests -/

section Refusals
variable {s : State} {n : CtrIdx}

theorem modeSet_midSequence {rw : RW} {m : Mode} {bcd : Bool} (hcfg : (s.ctr n).cfg = true)
    (hmid : midSequence (s.ctr n) = true) : modeSet n rw m bcd s = .refused .midSequence := by
  simp [modeSet, hcfg, hmid]

theorem modeSet_latchPending {rw : RW} {m : Mode} {bcd : Bool} (hcfg : (s.ctr n).cfg = true)
    (hmid : midSequence (s.ctr n) = false) (hlatch : latchIsOf s.latch n = true) :
    modeSet n rw m bcd s = .refused .latchPending := by
  simp [modeSet, hcfg, hmid, hlatch]

theorem latchCommand_unconfigured (hcfg : (s.ctr n).cfg = false) : latchCommand n s = .refused .unconfigured := by
  simp [latchCommand, hcfg]

theorem latchCommand_latchPending (hcfg : (s.ctr n).cfg = true) (hlatch : s.latch ≠ none) :
    latchCommand n s = .refused .latchPending := by
  simp [latchCommand, hcfg, Option.isSome_iff_ne_none, hlatch]

theorem latchCommand_midSequence (hcfg : (s.ctr n).cfg = true) (hlatch : s.latch = none)
    (hmid : midSequence (s.ctr n) = true) : latchCommand n s = .refused .midSequence := by
  simp [latchCommand, hcfg, hlatch, hmid]

end Refusals

/-! ## The rows of the control port -/

theorem exec_cwLatch (n : CtrIdx) (x : BitVec 4) (s : State) : exec (.cwLatch n x) s = latchCommand n s := rfl

/-- A mode-setting word runs `ModeSet` from its own row and from `BUS.WR_CTL` (R60, R61). -/
theorem exec_modeWord {i : Instr} {n : CtrIdx} {rw : RW} {m : Mode} {bcd : Bool} (s : State)
    (hi : i = modeInstr m n rw bcd ∨ i = .busWrCtl (encodeModeWord n rw m bcd)) :
    exec i s = modeSet n rw m bcd s := by
  obtain rfl | rfl := hi
  · exact exec_modeInstr m n rw bcd s
  · rw [exec_busWrCtl, decodeCw_encodeModeWord]
    exact exec_modeInstr m n rw bcd s

/-- SC = 11 is 192 and above (R69). -/
theorem decodeCw_of_le {w : Byte} (h : 192 ≤ w.toNat) : decodeCw w = .cwIllegalSc w := by
  have hSC : cwSC w = 3#2 := BitVec.eq_of_toNat_eq (by rw [cwSC_toNat, BitVec.toNat_ofNat]; omega)
  exact (encodes_illegalSc hSC).decodeCw

/-- M = 110 or 111 in a word that is neither of SC = 11 nor a read-on-the-fly command (R53, R70). -/
theorem decodeCw_of_mode_ge {w : Byte} (hSC : w.toNat < 192) (hRW : w.toNat / 16 % 4 ≠ 0)
    (hM : 6 ≤ w.toNat / 2 % 8) : decodeCw w = .cwIllegalMode w := by
  refine decodeCw_illegalMode (wellFormed_illegalMode.2 ⟨fun hsc => ?_, fun hrw => ?_, ?_⟩)
  · have three : w.toNat / 64 = 3 := by rw [← cwSC_toNat, hsc]; rfl
    omega
  · exact hRW (by rw [← cwRW_toNat, hrw]; rfl)
  · exact modeOfBits_eq_none_iff_le.2 (by rwa [cwM_toNat])

/-! ## The statements -/

/-- Settles O11: both rows run `ModeSet` (`exec_modeWord`), whose writes are `setUp` (`modeSet_eq_next`). -/
theorem modeSettingSetsUpTheCounter : Obligations.ModeSettingSetsUpTheCounter := by
  intro s n rw m bcd i hadm hi
  rw [exec_modeWord s hi]
  refine modeSet_eq_next.2 ⟨fun hcfg => ?_, (State.tristate_setCtr s n _).symm⟩
  obtain ⟨hwph, hrph, hlatch⟩ := hadm hcfg
  exact ⟨midSequence_eq_false.2 ⟨hwph, hrph⟩, hlatch⟩

/-- Settles O13. -/
theorem readOnTheFlyCaptures : Obligations.ReadOnTheFlyCaptures :=
  fun _ _ _ hcfg hlatch hwph hrph =>
    latchCommand_eq_next.2 ⟨hcfg, hlatch, midSequence_eq_false.2 ⟨hwph, hrph⟩, rfl⟩

/-- Settles O12: the two tests of `ModeSet` on a counter that is set up. -/
theorem modeSettingRefused : Obligations.ModeSettingRefused := by
  intro s n rw m bcd hcfg
  rw [exec_modeInstr]
  exact ⟨fun hmid => modeSet_midSequence hcfg (midSequence_eq_true.2 hmid),
    fun hwph hrph hlatch => modeSet_latchPending hcfg (midSequence_eq_false.2 ⟨hwph, hrph⟩) hlatch⟩

/-- Settles O14: the three tests of `Latch`, in their order. -/
theorem readOnTheFlyRefused : Obligations.ReadOnTheFlyRefused := by
  intro s n x
  rw [exec_cwLatch]
  exact ⟨latchCommand_unconfigured, latchCommand_latchPending,
    fun hcfg hlatch hmid => latchCommand_midSequence hcfg hlatch (midSequence_eq_true.2 hmid)⟩

/-- Settles O15: an illegal word written through `BUS.WR_CTL` decodes to its illegal row (`decodeCw_of_le`,
`decodeCw_of_mode_ge`), and the illegal rows answer by name. -/
theorem stopsOnEveryPath : Obligations.StopsOnEveryPath := by
  intro s w pins
  refine ⟨rfl, rfl, fun hSC => ?_, fun hSC hRW hM => ?_, rfl⟩
  · rw [exec_busWrCtl, decodeCw_of_le hSC]
    rfl
  · rw [exec_busWrCtl, decodeCw_of_mode_ge hSC hRW hM]
    rfl

end Sys2Proof.Machine

/-! A byte written to a counter port: the two refusals, the first byte of a load, and the byte that completes one
(R76 to R79, R82). -/

namespace Sys2Proof.Machine

/-! ## The write on one counter -/

section WriteByte
variable {b : Board} {level : Bool} {d : Byte} {c e : Counter}

/-- A byte that completes a load is stored, and `LoadComplete` runs on what is then stored (R77 to R79). -/
theorem writeByte_of_completedBy (h : completedBy b d c = some e) :
    writeByte b level d c = loadComplete b.mode0Reload level e := by
  unfold completedBy at h
  split at h
  · next hrw =>
    split at h
    · cases h
    · next hwph => cases h; simp [writeByte, hrw, writeTwoByte, hwph]
  · next hrw =>
    split at h
    · cases h
    · next hb => cases h; simp [writeByte, hrw, writeLSOnly, hb]
  · next hrw =>
    split at h
    · cases h
    · next hb => cases h; simp [writeByte, hrw, writeMSOnly, hb]

theorem writeByte_firstByte (hrw : c.rw = .lsms) (hwph : c.wph = .ls) :
    writeByte b level d c = .ok { c with crl := some d, wph := .ms } := by
  simp [writeByte, hrw, writeTwoByte, hwph]

theorem writeByte_singleByte (hrw : c.rw ≠ .lsms) (hb : b.singleByteOther = .refuse) :
    writeByte b level d c = .error .singleByte := by
  cases h : c.rw with
  | ls => simp [writeByte, h, writeLSOnly, hb]
  | ms => simp [writeByte, h, writeMSOnly, hb]
  | lsms => exact absurd h hrw

end WriteByte

/-! ## Counts that `CheckCount` refuses -/

section CheckCount
variable {w : Word} {bcd : Bool} {m : Mode}

theorem checkCount_badBCD (h : val w bcd = none) : checkCount w bcd m = .error .badBCD := by
  simp [checkCount, h]

theorem checkCount_zeroCount (h : val w bcd = some 0) : checkCount w bcd m = .error .zeroCount := by
  simp [checkCount, h]

theorem checkCount_countOne (h : val w bcd = some 1) (h0 : m ≠ .m0) (h1 : m ≠ .m1) :
    checkCount w bcd m = .error .countOne := by
  simp [checkCount, h, h0, h1]

/-- `LoadComplete` makes the test of `CheckCount` before it does anything (R79). -/
theorem loadComplete_of_checkCount_error {p : Mode0Reload} {level : Bool} {c : Counter} {r : Refusal}
    (hw : loadedCount c = some w) (hr : checkCount w c.bcd c.mode = .error r) :
    loadComplete p level c = .error r := by
  simp [loadComplete, hw, hr]

end CheckCount

/-! ## A load does not depend on the format -/

/-- The counter in another format. -/
def Counter.withRW (rw : RW) (c : Counter) : Counter := { c with rw := rw }

section Format
variable (rw : RW) (c : Counter)

@[simp] theorem loadedCount_withRW : loadedCount (c.withRW rw) = loadedCount c := rfl

theorem copyCount_withRW : copyCount (c.withRW rw) = (copyCount c).map (Counter.withRW rw) := by
  unfold copyCount
  rw [loadedCount_withRW]
  cases loadedCount c with
  | none => rfl
  | some w =>
    by_cases hm : c.mode = .m3
    · cases hv : val w c.bcd <;> simp [Counter.withRW, hm, hv, Except.map]
    · simp [Counter.withRW, hm, Except.map]

theorem startCount_withRW (o : OutPin) : startCount (c.withRW rw) o = (startCount c o).map (Counter.withRW rw) := by
  unfold startCount
  rw [copyCount_withRW]
  cases copyCount c <;> rfl

theorem load0_withRW (p : Mode0Reload) (level : Bool) :
    load0 p level (c.withRW rw) = (load0 p level c).map (Counter.withRW rw) := by
  have hguard : ((c.withRW rw).bc.isSome && !(c.withRW rw).run) = (c.bc.isSome && !c.run) := rfl
  unfold load0
  rw [hguard]
  cases c.bc.isSome && !c.run with
  | false => exact startCount_withRW rw c c.out
  | true =>
    cases reloadLevel p level with
    | error r => rfl
    | ok o => exact startCount_withRW rw c o

theorem load2_withRW : load2 (c.withRW rw) = (load2 c).map (Counter.withRW rw) := by
  have hguard : ((c.withRW rw).gate && !(c.withRW rw).run) = (c.gate && !c.run) := rfl
  unfold load2
  rw [hguard]
  cases c.gate && !c.run with
  | false => rfl
  | true => exact startCount_withRW rw c .hi

/-- `RW` says how the bytes of a load come in, and no rule of a completed load reads it (R79, R101 to R151). -/
theorem loadComplete_withRW (p : Mode0Reload) (level : Bool) :
    loadComplete p level (c.withRW rw) = (loadComplete p level c).map (Counter.withRW rw) := by
  have hbcd : (c.withRW rw).bcd = c.bcd := rfl
  have hmode : (c.withRW rw).mode = c.mode := rfl
  unfold loadComplete
  rw [loadedCount_withRW, hbcd, hmode]
  cases loadedCount c with
  | none => rfl
  | some w =>
    dsimp only
    cases checkCount w c.bcd c.mode with
    | error r => rfl
    | ok _ =>
      cases c.mode with
      | m0 => exact load0_withRW rw c p level
      | m1 => rfl
      | m2 => exact load2_withRW rw c
      | m3 => exact load2_withRW rw c
      | m4 => exact startCount_withRW rw c .hi
      | m5 => rfl

end Format

/-! ## A one-byte load as the last byte of a two-byte load -/

/-- The counter in the format of two bytes, with the first byte `lo` of a load stored (R78). -/
def awaitingLast (c : Counter) (lo : Byte) : Counter := { c with rw := .lsms, wph := .ms, crl := some lo }

/-- A one-byte load that stores the bytes `lo` and `hi` does what the write of `hi` after `lo` does (R77, D25). -/
theorem writeByte_eq_lastByte {b : Board} {level : Bool} {d lo hi : Byte} {c : Counter} (hwph : c.wph = .ls)
    (h : completedBy b d c = some { c with crl := some lo, crm := some hi }) :
    writeByte b level d c = (writeByte b level hi (awaitingLast c lo)).map (Counter.withRW c.rw) := by
  have hlast : completedBy b hi (awaitingLast c lo) = some { awaitingLast c lo with crm := some hi, wph := .ls } := rfl
  have hstored : { c with crl := some lo, crm := some hi } =
      Counter.withRW c.rw { awaitingLast c lo with crm := some hi, wph := .ls } := by
    simp [Counter.withRW, awaitingLast, ← hwph]
  rw [writeByte_of_completedBy h, writeByte_of_completedBy hlast, hstored, loadComplete_withRW]

/-! ## The state after a write -/

section AfterWrite
variable (s : State) (n : CtrIdx) (c e : Counter)

@[simp] theorem afterWrite_ctr : (afterWrite s n c).ctr n = c := State.ctr_setCtr_same _ n c

@[simp] theorem afterWrite_setCtr : (afterWrite s n c).setCtr n e = afterWrite s n e := State.setCtr_setCtr _ n c e

@[simp] theorem setCtr_afterWrite : afterWrite (s.setCtr n e) n c = afterWrite s n c := by cases n <;> rfl

end AfterWrite

/-! ## The rows of a counter port -/

section Rows
variable {s t : State} {n : CtrIdx} {d : Byte} {i : Instr} {c : Counter} {r : Refusal}

theorem counterWrite_unconfigured (hcfg : (s.ctr n).cfg = false) : counterWrite n d s = .refused .unconfigured := by
  simp [counterWrite, hcfg]

theorem counterWrite_interleave (hcfg : (s.ctr n).cfg = true)
    (hread : (s.ctr n).rph = .ms ∨ latchHalfRead s.latch n = true) : counterWrite n d s = .refused .interleave := by
  simp [counterWrite, hcfg, hread]

/-- An admitted write is the write on its counter, with the data pins let go and a draw offered (R76). -/
theorem counterWrite_admitted (h : WriteAdmitted s n) :
    counterWrite n d s = onCounter n (writeByte s.board (Config.mode0ReloadLevel s.draws) d) s.tristate.drawn := by
  obtain ⟨hcfg, hrph, hlatch⟩ := h
  simp [counterWrite, hcfg, hrph, hlatch]

theorem onCounter_eq_refused {f : Counter → Except Refusal Counter} :
    onCounter n f s = .refused r ↔ f (s.ctr n) = .error r := by
  unfold onCounter
  cases f (s.ctr n) <;> simp

theorem exec_writesPort (hi : WritesPort i n d) (s : State) : exec i s = counterWrite n d s := by
  obtain rfl | rfl := hi
  · rfl
  · exact exec_busWriteOf n d s

/-- An admitted write, from either row, completes exactly where the write on its counter does. -/
theorem exec_write_eq_next (hi : WritesPort i n d) (h : WriteAdmitted s n) :
    exec i s = .next t ↔
      ∃ c, writeByte s.board (Config.mode0ReloadLevel s.draws) d (s.ctr n) = .ok c ∧ t = afterWrite s n c := by
  rw [exec_writesPort hi, counterWrite_admitted h, onCounter_eq_next, State.drawn_ctr, State.tristate_ctr]
  rfl

theorem exec_write_eq_refused (hi : WritesPort i n d) (h : WriteAdmitted s n) :
    exec i s = .refused r ↔ writeByte s.board (Config.mode0ReloadLevel s.draws) d (s.ctr n) = .error r := by
  rw [exec_writesPort hi, counterWrite_admitted h, onCounter_eq_refused, State.drawn_ctr, State.tristate_ctr]

/-- A load completed with the count `w` is refused where `CheckCount` refuses `w` (R79, R82). -/
theorem exec_write_of_checkCount_error {e : Counter} {w : Word} (hi : WritesPort i n d) (h : WriteAdmitted s n)
    (he : completedBy s.board d (s.ctr n) = some e) (hw : loadedCount e = some w)
    (hr : checkCount w e.bcd e.mode = .error r) : exec i s = .refused r := by
  rw [exec_write_eq_refused hi h, writeByte_of_completedBy he]
  exact loadComplete_of_checkCount_error hw hr

theorem WriteAdmitted.awaitingLast (h : WriteAdmitted s n) (lo : Byte) :
    WriteAdmitted (s.setCtr n (awaitingLast (s.ctr n) lo)) n := by
  simpa [WriteAdmitted, Machine.awaitingLast] using h

section OneByte
variable {lo hi : Byte} (hwrite : WritesPort i n d) (hadm : WriteAdmitted s n) (hwph : (s.ctr n).wph = .ls)
  (hstored : completedBy s.board d (s.ctr n) = some { s.ctr n with crl := some lo, crm := some hi })
include hwrite hadm hwph hstored

/-- A one-byte load has the next state of the two-byte load of the same count, but for the format. -/
theorem exec_oneByte_next
    (hlast : exec (.cntWr n hi) (s.setCtr n (awaitingLast (s.ctr n) lo)) = .next t) :
    exec i s = .next (t.setCtr n { t.ctr n with rw := (s.ctr n).rw }) := by
  obtain ⟨c, hc, rfl⟩ := (exec_write_eq_next (.inl rfl) (hadm.awaitingLast lo)).1 hlast
  simp only [State.setCtr_board, State.setCtr_draws, State.ctr_setCtr_same] at hc
  refine (exec_write_eq_next hwrite hadm).2 ⟨c.withRW (s.ctr n).rw, ?_, ?_⟩
  · rw [writeByte_eq_lastByte hwph hstored, hc]
    rfl
  · simp [Counter.withRW]

/-- A one-byte load is refused where the two-byte load of the same count is. -/
theorem exec_oneByte_refused
    (hlast : exec (.cntWr n hi) (s.setCtr n (awaitingLast (s.ctr n) lo)) = .refused r) : exec i s = .refused r := by
  have hr := (exec_write_eq_refused (.inl rfl) (hadm.awaitingLast lo)).1 hlast
  simp only [State.setCtr_board, State.setCtr_draws, State.ctr_setCtr_same] at hr
  rw [exec_write_eq_refused hwrite hadm, writeByte_eq_lastByte hwph hstored, hr]
  rfl

end OneByte

end Rows

/-! ## The statements -/

/-- Settles O24: the two tests of `CounterWrite`, in their order. -/
theorem writeRefused : Obligations.WriteRefused := by
  intro s n d i hi
  rw [exec_writesPort hi]
  exact ⟨counterWrite_unconfigured, counterWrite_interleave⟩

/-- Settles O16. -/
theorem firstByteOfALoad : Obligations.FirstByteOfALoad :=
  fun _ _ _ _ hi hadm hrw hwph => (exec_write_eq_next hi hadm).2 ⟨_, writeByte_firstByte hrw hwph, rfl⟩

/-- Settles O22: a completed load runs `CheckCount` first (`exec_write_of_checkCount_error`), and each clause is one of
its tests. -/
theorem illegalCountsRefused : Obligations.IllegalCountsRefused := by
  intro s n d i e w hi hadm he hw
  have refused : ∀ {r}, checkCount w e.bcd e.mode = .error r → exec i s = .refused r :=
    exec_write_of_checkCount_error hi hadm he hw
  exact ⟨fun h => refused (checkCount_badBCD h), fun h => refused (checkCount_zeroCount h),
    fun h h0 h1 => refused (checkCount_countOne h h0 h1)⟩

/-- Settles O23: RW = 01 stores the bytes `d` and 00H, RW = 10 the bytes 00H and `d`, and what follows does not depend
on the format (`loadComplete_withRW`). -/
theorem oneByteLoads : Obligations.OneByteLoads := by
  intro s n d i hi hadm
  refine ⟨fun hrw hb => (exec_write_eq_refused hi hadm).2 (writeByte_singleByte hrw hb), fun hb hwph => ?_⟩
  have storedLS (hrw : (s.ctr n).rw = .ls) :
      completedBy s.board d (s.ctr n) = some { s.ctr n with crl := some d, crm := some 0#8 } := by
    simp [completedBy, hrw, hb]
  have storedMS (hrw : (s.ctr n).rw = .ms) :
      completedBy s.board d (s.ctr n) = some { s.ctr n with crl := some 0#8, crm := some d } := by
    simp [completedBy, hrw, hb]
  exact ⟨fun hrw t ht => hrw ▸ exec_oneByte_next hi hadm hwph (storedLS hrw) ht,
    fun hrw r hr => exec_oneByte_refused hi hadm hwph (storedLS hrw) hr,
    fun hrw t ht => hrw ▸ exec_oneByte_next hi hadm hwph (storedMS hrw) ht,
    fun hrw r hr => exec_oneByte_refused hi hadm hwph (storedMS hrw) hr⟩

end Sys2Proof.Machine

/-! A byte read from a counter port: the two refusals, the direct read, the two reads of a captured value, and what
falls between the steps of a reading (R86 to R90). -/

namespace Sys2Proof.Machine

/-! ## The bytes of a count -/

@[simp] theorem byteLS_some (w : Word) (draw : Nat) : byteLS (some w) draw = w.setWidth 8 := rfl

@[simp] theorem byteMS_some (w : Word) (draw : Nat) : byteMS (some w) draw = (w >>> 8).setWidth 8 := rfl

@[simp] theorem byteLS_none (draw : Nat) : byteLS none draw = Config.any8 draw := rfl

@[simp] theorem byteMS_none (draw : Nat) : byteMS none draw = Config.any8 draw := rfl

/-! ## The rows of a counter port -/

section Rows
variable {s : State} {n : CtrIdx} {i : Instr}

theorem counterRead_unconfigured (hcfg : (s.ctr n).cfg = false) : counterRead n s = .refused .unconfigured := by
  simp [counterRead, hcfg]

theorem counterRead_interleave (hcfg : (s.ctr n).cfg = true) (hwph : (s.ctr n).wph = .ms) :
    counterRead n s = .refused .interleave := by
  simp [counterRead, hcfg, hwph]

theorem exec_readsPort (hi : ReadsPort i n) (s : State) : exec i s = counterRead n s := by
  obtain rfl | rfl := hi
  · rfl
  · exact exec_busReadOf n s

theorem exec_read_admitted (hi : ReadsPort i n) (h : ReadAdmitted s n) : exec i s = .next (readCounter n s) := by
  obtain ⟨hcfg, hwph⟩ := h
  rw [exec_readsPort hi, counterRead_eq_next]
  exact ⟨hcfg, hwph, rfl⟩

/-- With no captured value of the counter waiting, the read is a direct one (R86). -/
theorem readCounter_direct (h : latchIsOf s.latch n = false) : readCounter n s = directRead n s := by
  obtain ⟨-, e⟩ | ⟨x, hx, hxn, -⟩ := readCounter_cases n s
  · exact e
  · simp [latchIsOf, hx, hxn] at h

theorem readCounter_latched {v : Option Word} {left : BytesLeft}
    (h : s.latch = some { counter := n, value := v, left := left }) : readCounter n s = latchedRead n v left s := by
  simp [readCounter, h]

end Rows

/-! ## The state after a read -/

section AfterRead
variable (s : State) (n : CtrIdx) (c : Counter) (b : Byte) (l : Option Latched)

theorem drive_setCtr : (s.setCtr n c).drive b = afterRead s n c b := by cases n <;> rfl

theorem drive_eq_afterRead : s.drive b = afterRead s n (s.ctr n) b := by
  rw [← drive_setCtr, State.setCtr_ctr]

@[simp] theorem afterRead_ctr : (afterRead s n c b).ctr n = c := State.ctr_setCtr_same _ n c

@[simp] theorem afterRead_latch : (afterRead s n c b).latch = s.latch := State.setCtr_latch _ n c

@[simp] theorem afterRead_dataPins : (afterRead s n c b).dataPins = .driven b := State.setCtr_dataPins _ n c

@[simp] theorem afterLatchedRead_ctr : (afterLatchedRead s l b).ctr n = s.ctr n := by cases n <;> rfl

end AfterRead

/-! ## The direct read -/

/-- The state after a direct read of a count whose LS byte is `lo` and whose MS byte is `hi` (R90). -/
def afterDirectRead (s : State) (n : CtrIdx) (lo hi : Byte) : State :=
  match (s.ctr n).rw, (s.ctr n).rph with
  | .ls, _ => afterRead s n (s.ctr n) lo
  | .ms, _ => afterRead s n (s.ctr n) hi
  | .lsms, .ls => afterRead s n { s.ctr n with rph := .ms } lo
  | .lsms, .ms => afterRead s n { s.ctr n with rph := .ls } hi

section DirectRead
variable {s : State} {n : CtrIdx} {i : Instr}

theorem directRead_eq (n : CtrIdx) (s : State) :
    directRead n s = afterDirectRead s n (byteLS (s.ctr n).bc s.draws) (byteMS (s.ctr n).bc s.draws) := by
  unfold directRead afterDirectRead
  cases hrw : (s.ctr n).rw with
  | ls => simp only [hrw, drive_eq_afterRead s n]
  | ms => simp only [hrw, drive_eq_afterRead s n]
  | lsms => cases hrph : (s.ctr n).rph <;> simp only [hrw, hrph, drive_setCtr]

theorem exec_directRead (hi : ReadsPort i n) (hadm : ReadAdmitted s n) (hlatch : latchIsOf s.latch n = false) :
    exec i s = .next (afterDirectRead s n (byteLS (s.ctr n).bc s.draws) (byteMS (s.ctr n).bc s.draws)) := by
  rw [exec_read_admitted hi hadm, readCounter_direct hlatch, directRead_eq]

end DirectRead

/-- Settles O28: the two tests of `CounterRead`, in their order. -/
theorem readRefused : Obligations.ReadRefused := by
  intro s n i hi
  rw [exec_readsPort hi]
  exact ⟨counterRead_unconfigured, counterRead_interleave⟩

/-- Settles O25: the bytes of `afterDirectRead` are those of the count. -/
theorem directReadDrivesTheCount : Obligations.DirectReadDrivesTheCount := by
  intro s n w i hi hadm hlatch hbc
  rw [exec_directRead hi hadm hlatch, hbc, byteLS_some, byteMS_some]
  rfl

/-- Settles O26: with no count to read, both bytes of `afterDirectRead` are the draw. -/
theorem unloadedReadDrivesAFreeByte : Obligations.UnloadedReadDrivesAFreeByte := by
  intro s n i hi hadm hlatch hbc
  rw [exec_directRead hi hadm hlatch, hbc, byteLS_none, byteMS_none]
  rfl

/-! ## The reads of a captured value -/

/-- Settles O27: the first read drives `byteLS` of the captured value and the second `byteMS`, and both bytes of a
captured `none` are the draw. -/
theorem latchedReadDrivesTheCapturedBytes : Obligations.LatchedReadDrivesTheCapturedBytes := by
  intro s n v i hi hadm
  refine ⟨fun hl => ?_, fun hl => ?_⟩ <;> rw [exec_read_admitted hi hadm, readCounter_latched hl]
  · cases v with
    | none => rfl
    | some w => rw [latchedRead, byteLS_some]; rfl
  · cases v with
    | none => rfl
    | some w => rw [latchedRead, byteMS_some]; rfl

/-! ## What falls between the steps of a read on the fly -/

/-- A property that every instruction keeps whose bus operation is not for Counter n holds after a sequence of them. -/
theorem execAll_keeps {P : State → Prop} {n : CtrIdx}
    (hkeep : ∀ {s t : State} {i : Instr}, P s → busTarget s i ≠ some n → exec i s = .next t → P t)
    {is : List Instr} {s t : State} (hs : P s) (hquiet : quietFor n is s) (ht : execAll is s = .next t) : P t := by
  induction is generalizing s with
  | nil => cases ht; exact hs
  | cons i rest ih =>
    obtain ⟨u, hu, hrest⟩ := andThen_eq_next.1 ht
    obtain ⟨hi, hq⟩ := hquiet
    exact ih (hkeep hs hi hu) (hq u hu) hrest

/-- An act that is no bus operation for a counter leaves its setting and its phases: pulses and gate changes write
neither (R12, R15, R16, R29). -/
theorem DeviceAct.setting_kept {bus pin : Option CtrIdx} {s u : State} {m : CtrIdx} (h : DeviceAct bus pin s u)
    (hb : bus ≠ some m) : SameSetting (s.ctr m) (u.ctr m) := by
  have onCounter {n : CtrIdx} {c : Counter} (hc : n = m → SameSetting (s.ctr n) c) :
      SameSetting (s.ctr m) ((s.setCtr n c).ctr m) := by
    rw [State.ctr_setCtr]
    split
    · next e => exact e ▸ hc e.symm
    · exact .refl _
  cases h with
  | idle => exact .refl _
  | modeSet n rw mode bcd hn hadm => exact onCounter fun e => absurd (e ▸ hn) hb
  | capture n hn hcfg hlatch hmid => rw [State.ctr_withLatch]; exact .refl _
  | write n d level c hn hcfg hrph hhalf hc => exact onCounter fun e => absurd (e ▸ hn) hb
  | turn n p hn hcfg hwph hlatch hrw => exact onCounter fun e => absurd (e ▸ hn) hb
  | firstRead n v hn hcfg hwph hlatch => rw [State.ctr_withLatch]; exact .refl _
  | secondRead n v hn hcfg hwph hlatch => rw [State.ctr_withLatch]; exact .refl _
  | pulse n c hn hc => exact onCounter fun _ => (clockCounter_setting hc).1
  | gate n v c hn hc => exact onCounter fun _ => (gateCounter_setting hc).1

/-- The next admitted read of Counter n is a read of the captured value `v`, with `left` bytes to be read (R89). -/
structure Captured (n : CtrIdx) (v : Option Word) (left : BytesLeft) (s : State) : Prop where
  latch : s.latch = some { counter := n, value := v, left := left }
  admitted : ReadAdmitted s n

section Captured
variable {s t : State} {n : CtrIdx} {v : Option Word} {left : BytesLeft}

theorem Captured.kept (h : Captured n v left s) {i : Instr} (hb : busTarget s i ≠ some n) (ht : exec i s = .next t) :
    Captured n v left t := by
  obtain ⟨hlatch, hcfg, hwph⟩ := h
  obtain ⟨u, hu, hut⟩ := exec_effect ht
  obtain ⟨hcfg', -, -, -, -, -, hwph', -⟩ := hut.ctr n ▸ hu.setting_kept hb
  exact ⟨(hut.latch.trans (hu.latch_kept hlatch hb)).trans hlatch, hcfg'.trans hcfg, hwph'.trans hwph⟩

theorem Captured.kept_execAll {is : List Instr} (h : Captured n v left s) (hquiet : quietFor n is s)
    (ht : execAll is s = .next t) : Captured n v left t :=
  execAll_keeps (fun hs => hs.kept) h hquiet ht

theorem captured_of_latchCommand (h : latchCommand n s = .next t) : Captured n (s.ctr n).bc .two t := by
  obtain ⟨hcfg, -, hmid, rfl⟩ := latchCommand_eq_next.1 h
  refine ⟨rfl, ?_⟩
  rw [ReadAdmitted, State.ctr_withLatch, State.tristate_ctr]
  exact ⟨hcfg, (midSequence_eq_false.1 hmid).1⟩

theorem Captured.afterLatchedRead {right : BytesLeft} (h : Captured n v left s) (b : Byte) :
    Captured n v right (afterLatchedRead s (some { counter := n, value := v, left := right }) b) := by
  refine ⟨rfl, ?_⟩
  rw [ReadAdmitted, afterLatchedRead_ctr]
  exact h.admitted

end Captured

/-- Settles O29: the command leaves the count captured (`captured_of_latchCommand`), what falls between keeps it so
(`Captured.kept_execAll`), and each read drives its byte of it. -/
theorem readOnTheFlyReturnsTheCapturedCount : Obligations.ReadOnTheFlyReturnsTheCapturedCount := by
  intro s s1 s2 s4 n x w es1 es2 hbc hcommand hquiet1 hes1
  have two : Captured n (some w) .two s2 := (hbc ▸ captured_of_latchCommand hcommand).kept_execAll hquiet1 hes1
  refine ⟨_, (latchedReadDrivesTheCapturedBytes s2 n (some w) _ (.inl rfl) two.admitted).1 two.latch, rfl,
    fun hquiet2 hes2 => ?_⟩
  have one : Captured n (some w) .one s4 := (two.afterLatchedRead _).kept_execAll hquiet2 hes2
  exact ⟨_, (latchedReadDrivesTheCapturedBytes s4 n (some w) _ (.inl rfl) one.admitted).2 one.latch, rfl, rfl⟩

/-! ## The two direct reads of a count -/

/-- A direct read of a counter with RW = 11 that holds the count `w` is admitted, and the byte of phase `p` is next
(R90). -/
structure TwoByteRead (n : CtrIdx) (w : Word) (p : Phase) (s : State) : Prop where
  admitted : ReadAdmitted s n
  unlatched : latchIsOf s.latch n = false
  format : (s.ctr n).rw = .lsms
  phase : (s.ctr n).rph = p
  count : (s.ctr n).bc = some w

section TwoByteRead
variable {s : State} {n : CtrIdx} {w : Word} {p : Phase}

theorem TwoByteRead.exec_first (h : TwoByteRead n w .ls s) :
    exec (.cntRd n) s = .next (afterRead s n { s.ctr n with rph := .ms } (w.setWidth 8)) := by
  simpa only [h.format, h.phase] using directReadDrivesTheCount s n w _ (.inl rfl) h.admitted h.unlatched h.count

theorem TwoByteRead.exec_second (h : TwoByteRead n w .ms s) :
    exec (.cntRd n) s = .next (afterRead s n { s.ctr n with rph := .ls } ((w >>> 8).setWidth 8)) := by
  simpa only [h.format, h.phase] using directReadDrivesTheCount s n w _ (.inl rfl) h.admitted h.unlatched h.count

/-- A read turns the phase alone. -/
theorem TwoByteRead.afterRead (h : TwoByteRead n w p s) (q : Phase) (b : Byte) :
    TwoByteRead n w q (afterRead s n { s.ctr n with rph := q } b) where
  admitted := by simpa [ReadAdmitted] using h.admitted
  unlatched := by simpa using h.unlatched
  format := by simpa using h.format
  phase := by simp
  count := by simpa using h.count

/-- A pulse that counts down leaves the format and the phase. -/
theorem TwoByteRead.afterPulse (h : TwoByteRead n w p s) (k : Nat) :
    TwoByteRead n (enc k (s.ctr n).bcd) p (s.setCtr n (countedTo (s.ctr n) k (s.ctr n).out)) where
  admitted := by simpa [ReadAdmitted, countedTo] using h.admitted
  unlatched := by simpa using h.unlatched
  format := by simpa [countedTo] using h.format
  phase := by simpa [countedTo] using h.phase
  count := by simp [countedTo]

end TwoByteRead

/-- A counted pulse of mode 0 above the terminal count (R102). -/
theorem clockCounter_mode0 {c : Counter} {w : Word} {k : Nat} (hcfg : c.cfg = true) (hmode : c.mode = .m0)
    (hrun : c.run = true) (hgate : c.gate = true) (hbc : c.bc = some w) (hval : val w c.bcd = some (k + 1))
    (hk : k ≠ 0) : clockCounter c = .ok (countedTo c k c.out) := by
  have hle : k ≤ maxCount c.bcd := Nat.le_of_succ_le (val_le_max hval)
  have hdown : countDown c = .ok (countedTo c k c.out) := countDown_of_val hbc hval
  have hclock : clockCounter c = .ok (stopAtTC (countedTo c k c.out)) := by
    simp [clockCounter, hcfg, hmode, clock0, hrun, hgate, hdown]
  rw [hclock, stopAtTC_countedTo hle, if_neg hk]

/-- Settles O30: the count is 3400H or 33FFH at the second read, and that read drives the MS byte of what the count is
then (`TwoByteRead.exec_second`). -/
theorem directReadHazard : Obligations.DirectReadHazard := by
  intro s n hcfg hrw hwph hrph hlatch hmode hbcd hgate hrun hbc
  have before : TwoByteRead n 0x3400#16 .ls s := ⟨⟨hcfg, hwph⟩, by rw [hlatch]; rfl, hrw, hrph, hbc⟩
  have between := before.afterRead .ms 0x00#8
  refine ⟨_, before.exec_first, afterRead_dataPins .., ⟨_, between.exec_second, afterRead_dataPins ..⟩, ?_⟩
  have counted : clockCounter { s.ctr n with rph := .ms } =
      .ok (countedTo { s.ctr n with rph := .ms } 0x33FF (s.ctr n).out) :=
    clockCounter_mode0 hcfg hmode hrun hgate hbc (by rw [hbcd]; rfl) (by decide)
  have count : enc 0x33FF (s.ctr n).bcd = 0x33FF#16 := by rw [hbcd]; rfl
  have pulsed := between.afterPulse 0x33FF
  rw [afterRead_ctr, count] at pulsed
  exact ⟨_, _, onCounter_ok (by rw [afterRead_ctr]; exact counted), pulsed.count, pulsed.exec_second,
    afterRead_dataPins ..⟩

end Sys2Proof.Machine

/-! A load completed in mode 0: before the first count, during a count, and after the terminal count (R101). -/

namespace Sys2Proof.Machine

section Loads
variable {c : Counter} {w : Word} {k : Nat}

/-! ## A completed load on one counter -/

/-- A legal count lets a completed load in mode 0 through to `Load0` (R79, R82). -/
theorem loadComplete_mode0 (p : Mode0Reload) (level : Bool) (hw : loadedCount c = some w)
    (hk : val w c.bcd = some (k + 1)) (hm : c.mode = .m0) : loadComplete p level c = load0 p level c := by
  have hlegal : checkCount w c.bcd .m0 = .ok () := checkCount_ok_iff.2 ⟨k, hk, fun _ => .inl rfl⟩
  simp [loadComplete, hw, hm, hlegal]

/-- Before the first count and during a count the output stays (R101). -/
theorem load0_outputStays (p : Mode0Reload) (level : Bool) (h : c.bc = none ∨ c.run = true) :
    load0 p level c = startCount c c.out := by
  obtain hb | hr := h
  · simp [load0, hb]
  · simp [load0, hr]

/-- After the terminal count the parameter gives the level of the output, or refuses (R101, D24). -/
theorem load0_afterTC (p : Mode0Reload) (level : Bool) (hb : c.bc ≠ none) (hr : c.run = false) :
    load0 p level c = (reloadLevel p level).bind (startCount c) := by
  have hloaded : (c.bc.isSome && !c.run) = true := by simp [hr, Option.isSome_iff_ne_none, hb]
  simp only [load0, hloaded, if_true]
  cases reloadLevel p level <;> rfl

/-- Only mode 3 keeps a half-way mark (R18). -/
theorem started_of_ne_m3 (o : OutPin) (hm : c.mode ≠ .m3) :
    started c w k o = { c with bc := some w, run := true, out := o } := by
  simp [started, hm]

/-- The start of a count in mode 0. -/
theorem startCount_mode0 (o : OutPin) (hw : loadedCount c = some w) (hk : val w c.bcd = some (k + 1))
    (hm : c.mode = .m0) : startCount c o = .ok { c with bc := some w, run := true, out := o } := by
  rw [startCount_of_loaded o hw hk, started_of_ne_m3 o (by simp [hm])]

end Loads

/-! ## The statements -/

/-- Settles O17: the load starts the count at the level the output has (`load0_outputStays`). -/
theorem mode0LoadStartsTheCount : Obligations.Mode0LoadStartsTheCount := by
  intro s n d i e w k hi hadm he hw hk hm hfirst
  refine (exec_write_eq_next hi hadm).2 ⟨_, ?_, rfl⟩
  rw [writeByte_of_completedBy he, loadComplete_mode0 _ _ hw hk hm, load0_outputStays _ _ hfirst]
  exact startCount_mode0 e.out hw hk hm

/-- Settles O18: each value of the parameter refuses the load or gives the level at which the count starts
(`load0_afterTC`). -/
theorem mode0ReloadAfterTerminalCount : Obligations.Mode0ReloadAfterTerminalCount := by
  intro s n d i e w k hi hadm he hw hk hm hb hr
  have hload : writeByte s.board (Config.mode0ReloadLevel s.draws) d (s.ctr n) =
      (reloadLevel s.board.mode0Reload (Config.mode0ReloadLevel s.draws)).bind (startCount e) := by
    rw [writeByte_of_completedBy he, loadComplete_mode0 _ _ hw hk hm, load0_afterTC _ _ hb hr]
  have starts {o : OutPin} (ho : reloadLevel s.board.mode0Reload (Config.mode0ReloadLevel s.draws) = .ok o) :
      exec i s = .next (afterWrite s n { e with bc := some w, run := true, out := o }) := by
    refine (exec_write_eq_next hi hadm).2 ⟨_, ?_, rfl⟩
    rw [hload, ho]
    exact startCount_mode0 o hw hk hm
  cases hp : s.board.mode0Reload with
  | refuse => exact (exec_write_eq_refused hi hadm).2 (by rw [hload, hp]; rfl)
  | low => exact starts (by rw [hp]; rfl)
  | high => exact starts (by rw [hp]; rfl)
  | free => exact starts (by rw [hp]; rfl)

end Sys2Proof.Machine

/-! Pulses in modes 0 and 1, and the gate in modes 0 and 4: one pulse, a run of pulses to the terminal count, and
pulses that are not counted (R102, R103, R114, R143, R144). -/

namespace Sys2Proof.Machine

/-! ## One pulse on one counter -/

section Pulse
variable {c : Counter} {w : Word} {k : Nat}

theorem exec_clkPulse (n : CtrIdx) (s : State) : exec (.clkPulse n) s = onCounter n clockCounter s := rfl

/-- A pulse is not counted before the counter is set up, with no count in progress, nor in modes 0 and 4 with the gate
at 0 (R212, R102, R144, D13). -/
theorem clockCounter_notCounted
    (h : c.cfg = false ∨ c.run = false ∨ (c.gate = false ∧ (c.mode = .m0 ∨ c.mode = .m4))) :
    clockCounter c = .ok c := by
  cases hcfg : c.cfg with
  | false => simp [clockCounter, hcfg]
  | true =>
    obtain hunset | hr | ⟨hg, hm | hm⟩ := h
    · simp [hcfg] at hunset
    · cases hm : c.mode <;> simp [clockCounter, hcfg, hm, clock0, clock1, clock2, clock3, clock4, clock5, hr]
    · simp [clockCounter, hcfg, hm, clock0, hg]
    · simp [clockCounter, hcfg, hm, clock4, hg]

/-- A counted pulse of modes 0 and 1 counts down and stops at the terminal count (R102, R114). -/
theorem clockCounter_counted01 (hcfg : c.cfg = true) (hrun : c.run = true) (hbc : c.bc = some w)
    (hval : val w c.bcd = some (k + 1)) (hmode : (c.mode = .m0 ∧ c.gate = true) ∨ c.mode = .m1) :
    clockCounter c = .ok (if k = 0 then atRest c else countedTo c k c.out) := by
  have hle : k ≤ maxCount c.bcd := Nat.le_of_succ_le (val_le_max hval)
  have hdown : countDown c = .ok (countedTo c k c.out) := countDown_of_val hbc hval
  rw [← stopAtTC_countedTo hle]
  obtain ⟨hm, hg⟩ | hm := hmode
  · simp [clockCounter, hcfg, hm, clock0, hrun, hg, hdown]
  · simp [clockCounter, hcfg, hm, clock1, hrun, hdown]

end Pulse

/-- Settles O33: the two outcomes of `clockCounter_counted01`. -/
theorem pulseInModes0And1 : Obligations.PulseInModes0And1 := by
  intro s n w k hcfg hrun hbc hval hmode
  rw [exec_clkPulse, onCounter_ok (clockCounter_counted01 hcfg hrun hbc hval hmode)]
  by_cases h0 : k = 0
  · simp [h0, atRest, enc_zero]
  · simp [h0, countedTo, hrun]

/-! ## A run of pulses -/

section Pulses
variable {s : State} {n : CtrIdx}

/-- A run of pulses takes the counter along the values that single pulses take it through, and leaves the rest of the
machine (R24, R29). -/
theorem pulses_follow {f : Nat → Counter} (hstart : f 0 = s.ctr n)
    (hpulse : ∀ j, clockCounter (f j) = .ok (f (j + 1))) (k : Nat) : pulses n k s = .next (s.setCtr n (f k)) := by
  induction k generalizing f s with
  | zero => rw [hstart, State.setCtr_ctr]; rfl
  | succ k ih =>
    have hfirst : exec (.clkPulse n) s = .next (s.setCtr n (f 1)) := onCounter_ok (hstart ▸ hpulse 0)
    have hrest := ih (s := s.setCtr n (f 1)) (f := fun j => f (j + 1)) (State.ctr_setCtr_same s n _).symm
      fun j => hpulse (j + 1)
    calc pulses n (k + 1) s
      _ = andThen (exec (.clkPulse n) s) (pulses n k) := rfl
      _ = pulses n k (s.setCtr n (f 1)) := by rw [hfirst, andThen_next]
      _ = .next (s.setCtr n (f (k + 1))) := by rw [hrest, State.setCtr_setCtr]

/-- Pulses that are not counted change nothing, however many. -/
theorem pulses_notCounted (h : clockCounter (s.ctr n) = .ok (s.ctr n)) (k : Nat) : pulses n k s = .next s := by
  rw [pulses_follow (f := fun _ => s.ctr n) rfl (fun _ => h) k, State.setCtr_ctr]

end Pulses

/-- The counter `k` pulses after it stood at the running count `N`, where the count stops at the terminal count with no
change of the output before it (R102, R114, D13). -/
def afterPulses01 (c : Counter) (N k : Nat) : Counter := if k < N then countedTo c (N - k) c.out else atRest c

section Waveform
variable {c : Counter} {w : Word} {N : Nat}

theorem afterPulses01_zero (hbc : c.bc = some w) (hval : val w c.bcd = some N) (hN : 0 < N) :
    afterPulses01 c N 0 = c := by
  rw [afterPulses01, if_pos hN, countedTo, Nat.sub_zero, enc_of_val hval, ← hbc]

/-- One pulse takes the waveform one place further. -/
theorem clockCounter_afterPulses01 (hcfg : c.cfg = true) (hrun : c.run = true) (hN : N ≤ maxCount c.bcd)
    (hmode : (c.mode = .m0 ∧ c.gate = true) ∨ c.mode = .m1) (k : Nat) :
    clockCounter (afterPulses01 c N k) = .ok (afterPulses01 c N (k + 1)) := by
  by_cases hk : k < N
  · obtain ⟨left, hleft⟩ : ∃ left, N - k = left + 1 := ⟨N - k - 1, by omega⟩
    have hval : val (enc (left + 1) c.bcd) c.bcd = some (left + 1) := val_enc (by omega)
    have hpulse := clockCounter_counted01 (c := countedTo c (left + 1) c.out) hcfg hrun rfl hval hmode
    have hbefore : afterPulses01 c N k = countedTo c (left + 1) c.out := by rw [afterPulses01, if_pos hk, hleft]
    rw [hbefore, hpulse]
    by_cases hlast : left = 0
    · rw [if_pos hlast, afterPulses01, if_neg (by omega)]
      rfl
    · rw [if_neg hlast, afterPulses01, if_pos (by omega), show N - (k + 1) = left by omega]
      rfl
  · rw [afterPulses01, afterPulses01, if_neg hk, if_neg (by omega)]
    exact clockCounter_notCounted (.inr (.inl rfl))

end Waveform

/-- Settles O37: the pulses follow the waveform `afterPulses01`, whose two parts are the two clauses. -/
theorem terminalCountAtPulseN : Obligations.TerminalCountAtPulseN := by
  intro s n w N hcfg hrun hbc hval hN _ hmode
  have hfollow (k : Nat) : pulses n k s = .next (s.setCtr n (afterPulses01 (s.ctr n) N k)) :=
    pulses_follow (afterPulses01_zero hbc hval hN)
      (clockCounter_afterPulses01 hcfg hrun (val_le_max hval) hmode) k
  refine ⟨fun k hk => ?_, fun k hk => ?_⟩
  · rw [hfollow, afterPulses01, if_pos hk]
    rfl
  · rw [hfollow, afterPulses01, if_neg (by omega)]
    rfl

/-! ## The gate in modes 0 and 4 -/

/-- In modes 0 and 4 a gate change writes the level alone (R24, R103, R143). -/
theorem gateCounter_level {c : Counter} (v : Bool) (hmode : c.mode = .m0 ∨ c.mode = .m4) :
    gateCounter v c = .ok { c with gate := v } := by
  by_cases hv : v = c.gate
  · subst hv
    exact gateCounter_same c
  · have hlevel : gateInMode v c = .ok { c with gate := v } := by
      obtain hm | hm := hmode <;> simp [gateInMode, hm, gateLevel]
    simp [gateCounter, hv, hlevel]

/-- Settles O42: `gateCounter_level`, and with the gate at 0 no pulse is counted (`clockCounter_notCounted`). -/
theorem gateLevelInModes0And4 : Obligations.GateLevelInModes0And4 := by
  intro s n _ hmode
  refine ⟨fun v => onCounter_ok (gateCounter_level v hmode), fun hgate => ?_⟩
  exact pulses_notCounted (clockCounter_notCounted (.inr (.inr ⟨hgate, hmode⟩)))

end Sys2Proof.Machine

/-! Where `val` and `dec1` are applied they are defined: no event in a state of the invariant meets the refusal
`undefinedCount` (R8, R100; log 17). -/

namespace Sys2Proof.Machine

/-! ## One counter -/

/-- The counter register of a completely loaded counter stands for a number. -/
def RegisterDefined (c : Counter) : Prop := ∀ w, loadedCount c = some w → ∃ k, val w c.bcd = some k

section Counter
variable {c c' : Counter}

theorem CounterInv.registerDefined (h : CounterInv c) : RegisterDefined c := by
  intro w hw
  obtain ⟨k, hk, -⟩ := checkCount_ok_iff.1 (h.legal w hw)
  exact ⟨k + 1, hk⟩

theorem RegisterDefined.of_setting (h : RegisterDefined c) (hs : SameSetting c c') : RegisterDefined c' := by
  intro w hw
  have ⟨_, _, hbcd, _⟩ := hs
  rw [hbcd]
  exact h w (hs.loaded ▸ hw)

theorem copyCount_ne_undefinedCount (h : RegisterDefined c) : copyCount c ≠ .error .undefinedCount := by
  cases hw : loadedCount c with
  | none => simp [copyCount_not_loaded hw]
  | some w =>
    obtain ⟨k, hk⟩ := h w hw
    simp [copyCount_of_loaded hw hk]

theorem startCount_ne_undefinedCount (h : RegisterDefined c) (o : OutPin) :
    startCount c o ≠ .error .undefinedCount := by
  unfold startCount
  split
  · simp
  · next r hr =>
    rintro ⟨⟩
    exact copyCount_ne_undefinedCount h hr

theorem reloadAtTC_ne_undefinedCount (h : RegisterDefined c) : reloadAtTC c ≠ .error .undefinedCount := by
  have hcopy : copyCount { c with out := .hi } ≠ .error .undefinedCount :=
    copyCount_ne_undefinedCount (h.of_setting (SameSetting.refl c))
  unfold reloadAtTC
  split_ifs
  · exact hcopy
  · simp
  · simp

/-- The count of a running counter can be counted down (R17, R100). -/
theorem CounterInv.exists_countDown (h : CounterInv c) (hr : c.run = true) : ∃ d, countDown c = .ok d := by
  obtain ⟨w, k, hbc, hval⟩ := h.running hr
  exact ⟨_, countDown_of_val hbc hval⟩

theorem clockCounter_ne_undefinedCount (h : CounterInv c) : clockCounter c ≠ .error .undefinedCount := by
  cases hr : c.run with
  | false => simp [clockCounter_notCounted (.inr (.inl hr))]
  | true =>
    obtain ⟨d, hd⟩ := h.exists_countDown hr
    have hreload (j : Nat) : reloadAtTC (lowAt j d) ≠ .error .undefinedCount :=
      reloadAtTC_ne_undefinedCount (h.registerDefined.of_setting ((countDown_setting hd).1.trans (lowAt_setting j d).1))
    cases hcfg : c.cfg with
    | false => simp [clockCounter_notCounted (.inl hcfg)]
    | true =>
      cases hm : c.mode with
      | m0 => cases hg : c.gate <;> simp [clockCounter, hcfg, hm, clock0, hr, hg, hd]
      | m1 => simp [clockCounter, hcfg, hm, clock1, hr, hd]
      | m2 => simp [clockCounter, hcfg, hm, clock2, hr, hd, hreload]
      | m3 => simp [clockCounter, hcfg, hm, clock3, hr, hd, hreload]
      | m4 => cases hg : c.gate <;> simp [clockCounter, hcfg, hm, clock4, hr, hg, hd]
      | m5 => simp [clockCounter, hcfg, hm, clock5, hr, hd]

theorem gateCounter_ne_undefinedCount (h : RegisterDefined c) (v : Bool) :
    gateCounter v c ≠ .error .undefinedCount := by
  have hstart (o : OutPin) : startCount { c with gate := true } o ≠ .error .undefinedCount :=
    startCount_ne_undefinedCount (h.of_setting (c' := { c with gate := true }) (SameSetting.refl c)) o
  have htrigger (o : OutPin) : gateTrigger o v c ≠ .error .undefinedCount := by
    cases v <;> simp [gateTrigger, hstart]
  have hmode : gateInMode v c ≠ .error .undefinedCount := by
    cases hm : c.mode <;> simp [gateInMode, hm, gateLevel, htrigger]
  unfold gateCounter
  split_ifs
  · simp
  · exact hmode
  · simp

/-- `CheckCount` has names of its own for what it refuses (R82). -/
theorem checkCount_ne_undefinedCount (w : Word) (bcd : Bool) (m : Mode) :
    checkCount w bcd m ≠ .error .undefinedCount := by
  unfold checkCount
  split
  · simp
  · simp
  · split <;> simp

theorem load0_ne_undefinedCount (h : RegisterDefined c) (p : Mode0Reload) (level : Bool) :
    load0 p level c ≠ .error .undefinedCount := by
  by_cases hfirst : c.bc = none ∨ c.run = true
  · rw [load0_outputStays p level hfirst]
    exact startCount_ne_undefinedCount h c.out
  · obtain ⟨hb, hr⟩ := not_or.1 hfirst
    rw [load0_afterTC p level hb (Bool.eq_false_of_not_eq_true hr)]
    cases p with
    | refuse => simp [reloadLevel, Except.bind]
    | low => exact startCount_ne_undefinedCount h .lo
    | high => exact startCount_ne_undefinedCount h .hi
    | free => exact startCount_ne_undefinedCount h _

theorem load2_ne_undefinedCount (h : RegisterDefined c) : load2 c ≠ .error .undefinedCount := by
  unfold load2
  split_ifs
  · exact startCount_ne_undefinedCount h .hi
  · simp

/-- A load goes on to a count only where `CheckCount` has found a number in the counter register (R79, R82). -/
theorem loadComplete_ne_undefinedCount (p : Mode0Reload) (level : Bool) (c : Counter) :
    loadComplete p level c ≠ .error .undefinedCount := by
  cases hw : loadedCount c with
  | none => simp [loadComplete, hw]
  | some w =>
    cases hcheck : checkCount w c.bcd c.mode with
    | error r =>
      rw [loadComplete_of_checkCount_error hw hcheck]
      rintro ⟨⟩
      exact checkCount_ne_undefinedCount w c.bcd c.mode hcheck
    | ok _ =>
      obtain ⟨k, hk, -⟩ := checkCount_ok_iff.1 hcheck
      have hdef : RegisterDefined c := fun w' hw' => ⟨k + 1, by cases hw.symm.trans hw'; exact hk⟩
      simp only [loadComplete, hw, hcheck]
      cases c.mode with
      | m0 => exact load0_ne_undefinedCount hdef p level
      | m1 => simp [load1]
      | m2 => exact load2_ne_undefinedCount hdef
      | m3 => exact load2_ne_undefinedCount hdef
      | m4 => exact startCount_ne_undefinedCount hdef .hi
      | m5 => simp [load5]

/-- The bytes that complete no load: the first of two, and a one-byte load that `SINGLE_BYTE_OTHER` refuses. -/
theorem completedBy_eq_none {b : Board} {d : Byte} (h : completedBy b d c = none) :
    (c.rw = .lsms ∧ c.wph = .ls) ∨ (c.rw ≠ .lsms ∧ b.singleByteOther = .refuse) := by
  unfold completedBy at h
  split at h
  · next hrw =>
    split at h
    · next hwph => exact .inl ⟨hrw, hwph⟩
    · cases h
  · next hrw =>
    split at h
    · next hb => exact .inr ⟨by simp [hrw], hb⟩
    · cases h
  · next hrw =>
    split at h
    · next hb => exact .inr ⟨by simp [hrw], hb⟩
    · cases h

theorem writeByte_ne_undefinedCount (b : Board) (level : Bool) (d : Byte) (c : Counter) :
    writeByte b level d c ≠ .error .undefinedCount := by
  cases he : completedBy b d c with
  | some e =>
    rw [writeByte_of_completedBy he]
    exact loadComplete_ne_undefinedCount _ _ e
  | none =>
    obtain ⟨hrw, hwph⟩ | ⟨hrw, hb⟩ := completedBy_eq_none he
    · simp [writeByte_firstByte hrw hwph]
    · simp [writeByte_singleByte hrw hb]

end Counter

/-! ## The whole machine -/

section Machine
variable {s : State} {n : CtrIdx}

theorem andThen_next_ne_undefinedCount {o : Result} {f : State → State} (h : o ≠ .refused .undefinedCount) :
    andThen o (fun t => .next (f t)) ≠ .refused .undefinedCount := by
  cases o <;> simp_all [andThen]

theorem onCounter_ne_undefinedCount {f : Counter → Except Refusal Counter}
    (h : f (s.ctr n) ≠ .error .undefinedCount) :
    onCounter n f s ≠ .refused .undefinedCount := mt onCounter_eq_refused.1 h

theorem modeSet_ne_undefinedCount (n : CtrIdx) (rw : RW) (m : Mode) (bcd : Bool) (s : State) :
    modeSet n rw m bcd s ≠ .refused .undefinedCount := by
  unfold modeSet
  split_ifs <;> simp

theorem latchCommand_ne_undefinedCount (n : CtrIdx) (s : State) : latchCommand n s ≠ .refused .undefinedCount := by
  unfold latchCommand
  split_ifs <;> simp

theorem controlWrite_ne_undefinedCount (d : Byte) (s : State) : controlWrite d s ≠ .refused .undefinedCount := by
  unfold controlWrite
  split
  · simp
  · split
    · exact latchCommand_ne_undefinedCount _ s
    · split
      · simp
      · exact modeSet_ne_undefinedCount _ _ _ _ s

theorem counterWrite_ne_undefinedCount (n : CtrIdx) (d : Byte) (s : State) :
    counterWrite n d s ≠ .refused .undefinedCount := by
  unfold counterWrite
  split_ifs
  · simp
  · simp
  · exact onCounter_ne_undefinedCount (writeByte_ne_undefinedCount _ _ d _)

theorem counterRead_ne_undefinedCount (n : CtrIdx) (s : State) : counterRead n s ≠ .refused .undefinedCount := by
  unfold counterRead
  split_ifs <;> simp

theorem busNop_ne_undefinedCount (s : State) : busNop s ≠ .refused .undefinedCount := nofun

theorem portWrite_ne_undefinedCount (a : BitVec 2) (d : Byte) (s : State) :
    portWrite a d s ≠ .refused .undefinedCount := by
  unfold portWrite
  split
  · exact controlWrite_ne_undefinedCount d s
  · exact counterWrite_ne_undefinedCount _ d s

theorem portRead_ne_undefinedCount (a : BitVec 2) (s : State) : portRead a s ≠ .refused .undefinedCount := by
  unfold portRead
  split
  · exact busNop_ne_undefinedCount s
  · exact counterRead_ne_undefinedCount _ s

theorem hostOut_ne_undefinedCount (a8 : Byte) (s : State) : hostOut a8 s ≠ .refused .undefinedCount := by
  unfold hostOut
  split_ifs
  · exact portWrite_ne_undefinedCount _ _ s
  · exact busNop_ne_undefinedCount s

theorem hostIn_ne_undefinedCount (a8 : Byte) (s : State) : hostIn a8 s ≠ .refused .undefinedCount := by
  unfold hostIn
  split_ifs
  · exact portRead_ne_undefinedCount _ s
  · exact busNop_ne_undefinedCount s

/-- Only pulses and gate changes need the invariant: a load checks its own count. -/
theorem exec_ne_undefinedCount (h : ∀ n, CounterInv (s.ctr n)) (i : Instr) : exec i s ≠ .refused .undefinedCount := by
  cases i with
  | busRdC0 => exact portRead_ne_undefinedCount 0#2 s
  | busRdC1 => exact portRead_ne_undefinedCount 1#2 s
  | busRdC2 => exact portRead_ne_undefinedCount 2#2 s
  | busRdCtlNop => exact portRead_ne_undefinedCount 3#2 s
  | busWrC0 d => exact portWrite_ne_undefinedCount 0#2 d s
  | busWrC1 d => exact portWrite_ne_undefinedCount 1#2 d s
  | busWrC2 d => exact portWrite_ne_undefinedCount 2#2 d s
  | busWrCtl d => exact portWrite_ne_undefinedCount 3#2 d s
  | busNopDeselected pins => exact busNop_ne_undefinedCount s
  | busNopIdle pins => exact busNop_ne_undefinedCount s
  | busRdwrBothLow pins => nofun
  | cwIllegalSc w => nofun
  | cwLatch n x => exact latchCommand_ne_undefinedCount n s
  | cwMode0 n rw bcd => exact modeSet_ne_undefinedCount n rw .m0 bcd s
  | cwMode1 n rw bcd => exact modeSet_ne_undefinedCount n rw .m1 bcd s
  | cwMode2 n rw bcd => exact modeSet_ne_undefinedCount n rw .m2 bcd s
  | cwMode3 n rw bcd => exact modeSet_ne_undefinedCount n rw .m3 bcd s
  | cwMode4 n rw bcd => exact modeSet_ne_undefinedCount n rw .m4 bcd s
  | cwMode5 n rw bcd => exact modeSet_ne_undefinedCount n rw .m5 bcd s
  | cwIllegalMode w => nofun
  | cntWr n d => exact counterWrite_ne_undefinedCount n d s
  | cntRd n => exact counterRead_ne_undefinedCount n s
  | clkPulse n => exact onCounter_ne_undefinedCount (clockCounter_ne_undefinedCount (h n))
  | gateSet n v => exact onCounter_ne_undefinedCount (gateCounter_ne_undefinedCount (h n).registerDefined v)
  | mviA d8 => nofun
  | outA8 a8 => exact andThen_next_ne_undefinedCount (hostOut_ne_undefinedCount a8 s)
  | inA8 a8 => exact andThen_next_ne_undefinedCount (hostIn_ne_undefinedCount a8 s)
  | movEA => nofun
  | movDA => nofun

end Machine

/-- Settles O58: a step faults in the fetch, is refused by the decoder under the decoder's own name, or runs an
instruction (`exec_ne_undefinedCount`). -/
theorem countsAreDefined : Obligations.CountsAreDefined := by
  intro s hi
  unfold step
  split
  · simp
  · split
    · simp
    · exact exec_ne_undefinedCount ((SameDevice.popInput s).inv hi).counters _

end Sys2Proof.Machine

/-! Modes 1 and 5, where a load changes the counter register only and the gate is the trigger; the trigger of modes 2
and 3; and the fall of the gate in every mode (R111 to R113, R122, R132, R151 to R153). -/

namespace Sys2Proof.Machine

section TriggeredModes
variable {c : Counter} {w : Word} {k : Nat}

/-! ## A completed load -/

/-- A legal count lets a completed load through to `Load1` or `Load5`, and these do nothing (R79, R82, R111, R151). -/
theorem loadComplete_registerOnly (p : Mode0Reload) (level : Bool) (hw : loadedCount c = some w)
    (hk : val w c.bcd = some (k + 1)) (hm : c.mode = .m1 ∨ (c.mode = .m5 ∧ 1 ≤ k)) :
    loadComplete p level c = .ok c := by
  have hone : k = 0 → c.mode = .m0 ∨ c.mode = .m1 := fun hk0 => .inr (hm.resolve_right fun ⟨_, hpos⟩ => by omega)
  have hlegal : checkCount w c.bcd c.mode = .ok () := checkCount_ok_iff.2 ⟨k, hk, hone⟩
  obtain hm | ⟨hm, -⟩ := hm
  · rw [hm] at hlegal
    simp [loadComplete, hw, hm, hlegal, load1]
  · rw [hm] at hlegal
    simp [loadComplete, hw, hm, hlegal, load5]

/-! ## The gate -/

/-- The trigger of a loaded counter starts the count; the rise itself touches neither the register nor the mode
(R112, R122, R132, R152). -/
theorem gateCounter_trigger (hcfg : c.cfg = true) (hgate : c.gate = false) (h0 : c.mode ≠ .m0) (h4 : c.mode ≠ .m4)
    (hw : loadedCount c = some w) (hk : val w c.bcd = some k) :
    gateCounter true c = .ok (started { c with gate := true } w k (if c.mode = .m1 then .lo else .hi)) := by
  have hw' : loadedCount { c with gate := true } = some w := hw
  rw [gateCounter_rise hgate hcfg h0 h4, startCount_of_loaded _ hw' hk]

/-- In every mode a fall writes the level alone (R103, R113, R123, R132, R143, R153). -/
theorem gateInMode_fall (c : Counter) : gateInMode false c = .ok { c with gate := false } := by
  cases hm : c.mode with
  | m0 | m4 => simp [gateInMode, hm, gateLevel]
  | m1 | m2 | m3 | m5 => simp [gateInMode, hm, gateTrigger]

/-- So it does at the level it already has (R24) and before the counter is set up (R212). -/
theorem gateCounter_fall (c : Counter) : gateCounter false c = .ok { c with gate := false } := by
  by_cases hgate : c.gate = false
  · have hsame : { c with gate := false } = c := by rw [← hgate]
    rw [hsame, ← hgate]
    exact gateCounter_same c
  · have hne : false ≠ c.gate := fun h => hgate h.symm
    by_cases hcfg : c.cfg = true
    · simp [gateCounter, hne, hcfg, gateInMode_fall]
    · exact gateCounter_unset hne (Bool.eq_false_of_not_eq_true hcfg)

end TriggeredModes

/-! ## The statements -/

/-- Settles O19: what the write stores is what stays (`loadComplete_registerOnly`). -/
theorem loadInModes1And5 : Obligations.LoadInModes1And5 := by
  intro s n d i e w k hi hadm he hw hk hm
  refine (exec_write_eq_next hi hadm).2 ⟨e, ?_, rfl⟩
  rw [writeByte_of_completedBy he, loadComplete_registerOnly _ _ hw hk hm]

/-- Settles O44: `started` is the counter that the statement writes out. -/
theorem triggerStartsTheCount : Obligations.TriggerStartsTheCount := by
  intro s n w k hcfg hgate h0 h4 hw hk
  rw [exec_gateSet, onCounter_ok (gateCounter_trigger hcfg hgate h0 h4 hw hk)]
  rfl

/-- Settles O43. -/
theorem gateFall : Obligations.GateFall := fun _ _ => onCounter_ok (gateCounter_fall _)

end Sys2Proof.Machine

/-! Modes 2 and 3, where the terminal count loads the BCounter again: a completed load, one pulse in mode 2, and the
period of the rate generator (R121, R124, R125, R131, R133). -/

namespace Sys2Proof.Machine

section ReloadingModes
variable {c : Counter} {w : Word} {k j : Nat} {o : OutPin}

/-! ## A completed load -/

/-- A legal count lets a completed load through to `Load2` or `Load3`, which are one rule (R79, R82, R121, R131). -/
theorem loadComplete_mode23 (p : Mode0Reload) (level : Bool) (hw : loadedCount c = some w)
    (hk : val w c.bcd = some (k + 2)) (hm : c.mode = .m2 ∨ c.mode = .m3) : loadComplete p level c = load2 c := by
  have hlegal : checkCount w c.bcd c.mode = .ok () := checkCount_ok_iff.2 ⟨k + 1, hk, nofun⟩
  obtain hm | hm := hm
  · rw [hm] at hlegal
    simp [loadComplete, hw, hm, hlegal]
  · rw [hm] at hlegal
    simp [loadComplete, hw, hm, hlegal, load2, load3]

/-- "Gate = 1, counter is not presently running, but is loaded" (R121). -/
theorem load2_starts (hg : c.gate = true) (hr : c.run = false) : load2 c = startCount c .hi := by
  simp [load2, hg, hr]

/-- With the gate at 0 or a count in progress the new count waits in the counter register (R121). -/
theorem load2_registerOnly (h : c.gate = false ∨ c.run = true) : load2 c = .ok c := by
  obtain hg | hr := h
  · simp [load2, hg]
  · simp [load2, hr]

/-! ## One pulse -/

/-- Outside mode 3 a start takes whatever the counter register holds, a number or not (R22). -/
theorem startCount_of_ne_m3 (o : OutPin) (hw : loadedCount c = some w) (hm : c.mode ≠ .m3) :
    startCount c o = .ok { c with bc := some w, run := true, out := o } := by
  simp [startCount, copyCount, hw, hm]

theorem reloadAtTC_countedTo_above (hk : k ≤ maxCount c.bcd) (h0 : k ≠ 0) :
    reloadAtTC (countedTo c k o) = .ok (countedTo c k o) := by
  simp [reloadAtTC, atTC_countedTo hk, h0]

/-- At the terminal count with the gate at 0 "the operation stops" (R124, R133). -/
theorem reloadAtTC_countedTo_stop (hg : c.gate = false) : reloadAtTC (countedTo c 0 o) = .ok (atRest c) := by
  have htc : atTC (countedTo c 0 o) = true := atTC_countedTo (Nat.zero_le _)
  have hgate : (countedTo c 0 o).gate = false := hg
  rw [reloadAtTC, if_pos htc, if_neg (by simp [hgate])]
  simp [countedTo, atRest, enc_zero]

/-- At the terminal count with the gate at 1 the count starts again (R124, R133). -/
theorem reloadAtTC_countedTo_restart (hr : c.run = true) (hg : c.gate = true) :
    reloadAtTC (countedTo c 0 o) = startCount c .hi := by
  have htc : atTC (countedTo c 0 o) = true := atTC_countedTo (Nat.zero_le _)
  have hgate : (countedTo c 0 o).gate = true := hg
  rw [← copyCount_countedTo (k := 0) (o := o) hr]
  simp [reloadAtTC, htc, hgate]

/-- A counted pulse of modes 2 and 3: one down, the output falling at the low mark, then the test for the terminal
count, whatever the gate (R124, R133). -/
theorem clockCounter_counted23 (hcfg : c.cfg = true) (hrun : c.run = true) (hmode : c.mode = .m2 ∨ c.mode = .m3)
    (hmark : lowMark c = some j) (hbc : c.bc = some w) (hval : val w c.bcd = some (k + 1)) :
    clockCounter c = reloadAtTC (countedTo c k (if k = j then .lo else c.out)) := by
  have hdown : countDown c = .ok (countedTo c k c.out) := countDown_of_val hbc hval
  rw [← lowAt_countedTo (Nat.le_of_succ_le (val_le_max hval))]
  obtain hm | hm := hmode
  · obtain rfl : 1 = j := by simpa [lowMark, hm] using hmark
    simp [clockCounter, hcfg, hm, clock2, hrun, hdown]
  · obtain rfl : c.half = j := by simpa [lowMark, hm] using hmark
    simp [clockCounter, hcfg, hm, clock3, hrun, hdown]

end ReloadingModes

/-! ## The period -/

/-- The counter at the start of a period of the count `N` with the gate at 1: a start of the count, which is what the
terminal count does, gives this counter again. The output falls at the count `j` (R124, R133). -/
structure StartsPeriod (c : Counter) (N j : Nat) : Prop where
  cfg : c.cfg = true
  mode : c.mode = .m2 ∨ c.mode = .m3
  gate : c.gate = true
  run : c.run = true
  out : c.out = .hi
  count : c.bc = some (enc N c.bcd)
  countBound : N ≤ maxCount c.bcd
  mark : lowMark c = some j
  markBelow : j < N
  restart : startCount c .hi = .ok c

/-- The counter `k` pulses after the start of a period: `N - k % N` is left to count, and the output is 0 from the low
mark `j` down. -/
def dividing (c : Counter) (N j k : Nat) : Counter :=
  countedTo c (N - k % N) (if N - k % N ≤ j then .lo else .hi)

namespace StartsPeriod
variable {c : Counter} {N j k : Nat}

theorem dividing_of_mod_eq_zero (h : StartsPeriod c N j) (hk : k % N = 0) : dividing c N j k = c := by
  rw [dividing, hk, Nat.sub_zero, if_neg (Nat.not_le.2 h.markBelow), countedTo, ← h.count, ← h.out]

/-- A pulse anywhere in the period. -/
theorem clockCounter_countedTo (h : StartsPeriod c N j) (hk : k + 1 ≤ N) (o : OutPin) :
    clockCounter (countedTo c (k + 1) o) = reloadAtTC (countedTo c k (if k = j then .lo else o)) :=
  clockCounter_counted23 (c := countedTo c (k + 1) o) h.cfg h.run h.mode h.mark rfl
    (val_enc (hk.trans h.countBound))

/-- One pulse takes the period one place further, from its last place to the start of the next (R124, R125, R133). -/
theorem clockCounter_dividing (h : StartsPeriod c N j) (k : Nat) :
    clockCounter (dividing c N j k) = .ok (dividing c N j (k + 1)) := by
  have hbound := h.countBound
  have hplace : k % N < N := Nat.mod_lt k (by have := h.markBelow; omega)
  have hnext : (k + 1) % N = (k % N + 1) % N := (Nat.mod_add_mod k N 1).symm
  obtain ⟨left, hleft⟩ : ∃ left, N - k % N = left + 1 := ⟨N - k % N - 1, by omega⟩
  rw [dividing, hleft, h.clockCounter_countedTo (by omega)]
  by_cases hlast : left = 0
  · have hwrap : (k + 1) % N = 0 := by rw [hnext, show k % N + 1 = N by omega, Nat.mod_self]
    rw [hlast, reloadAtTC_countedTo_restart h.run h.gate, h.restart, h.dividing_of_mod_eq_zero hwrap]
  · have hleft' : N - (k + 1) % N = left := by rw [hnext, Nat.mod_eq_of_lt (by omega)]; omega
    have hlow : left ≤ j ↔ left = j ∨ left + 1 ≤ j := by omega
    rw [reloadAtTC_countedTo_above (by omega) hlast, dividing, hleft']
    simp only [hlow, ite_or]

/-- The pulses go through the period again and again. -/
theorem pulses_eq {s : State} {n : CtrIdx} (h : StartsPeriod (s.ctr n) N j) (k : Nat) :
    pulses n k s = .next (s.setCtr n (dividing (s.ctr n) N j k)) :=
  pulses_follow (h.dividing_of_mod_eq_zero (Nat.zero_mod N)) h.clockCounter_dividing k

/-- After pulse `N` the whole machine is back where it started. -/
theorem pulses_period {s : State} {n : CtrIdx} (h : StartsPeriod (s.ctr n) N j) : pulses n N s = .next s := by
  rw [h.pulses_eq, h.dividing_of_mod_eq_zero (Nat.mod_self N), State.setCtr_ctr]

end StartsPeriod

/-- Mode 2 at the start of a period: the output falls for the last count down (R124). -/
theorem startsPeriod_mode2 {c : Counter} {w : Word} {N : Nat} (hcfg : c.cfg = true) (hm : c.mode = .m2)
    (hrun : c.run = true) (hgate : c.gate = true) (hout : c.out = .hi) (hbc : c.bc = some w)
    (hw : loadedCount c = some w) (hval : val w c.bcd = some N) (hN : 2 ≤ N) : StartsPeriod c N 1 where
  cfg := hcfg
  mode := .inl hm
  gate := hgate
  run := hrun
  out := hout
  count := by rw [hbc, enc_of_val hval]
  countBound := val_le_max hval
  mark := by simp [lowMark, hm]
  markBelow := hN
  restart := by rw [startCount_of_ne_m3 .hi hw (by simp [hm]), ← hbc, ← hrun, ← hout]

/-! ## The statements -/

/-- Settles O20: the load starts the count (`load2_starts`) or leaves what the write stored (`load2_registerOnly`). -/
theorem loadInModes2And3 : Obligations.LoadInModes2And3 := by
  intro s n d i e w k hi hadm he hw hk hm
  have hload : writeByte s.board (Config.mode0ReloadLevel s.draws) d (s.ctr n) = load2 e := by
    rw [writeByte_of_completedBy he, loadComplete_mode23 _ _ hw hk hm]
  refine ⟨fun hg hr => ?_, fun hidle => ?_⟩
  · refine (exec_write_eq_next hi hadm).2 ⟨started e w (k + 2) .hi, ?_, rfl⟩
    rw [hload, load2_starts hg hr, startCount_of_loaded .hi hw hk]
  · exact (exec_write_eq_next hi hadm).2 ⟨e, by rw [hload, load2_registerOnly hidle], rfl⟩

/-- Settles O34: the counted pulse is `clockCounter_counted23` with the low mark 1, and its four clauses are the cases
of the terminal count. -/
theorem pulseInMode2 : Obligations.PulseInMode2 := by
  intro s n w k hcfg hrun hbc hval hm
  have hmark : lowMark (s.ctr n) = some 1 := by simp [lowMark, hm]
  have hpulse := clockCounter_counted23 hcfg hrun (.inl hm) hmark hbc hval
  have hk : k ≤ maxCount (s.ctr n).bcd := Nat.le_of_succ_le (val_le_max hval)
  rw [exec_clkPulse]
  refine ⟨fun h0 => ?_, ?_, ?_, ?_⟩
  · exact onCounter_ok (hpulse.trans (reloadAtTC_countedTo_above hk h0))
  · rintro rfl hgate
    exact onCounter_ok (hpulse.trans (reloadAtTC_countedTo_stop hgate))
  · rintro rfl hgate r hr
    rw [reloadAtTC_countedTo_restart hrun hgate, startCount_of_ne_m3 .hi hr (by simp [hm]), ← hrun] at hpulse
    exact onCounter_ok hpulse
  · rintro rfl hgate hr
    rw [reloadAtTC_countedTo_restart hrun hgate, startCount_not_loaded hr] at hpulse
    exact onCounter_error hpulse

/-- Settles O38: the pulses follow `dividing` with the low mark 1, which is reached at pulse `N - 1`. -/
theorem rateGeneratorPeriod : Obligations.RateGeneratorPeriod := by
  intro s n w N hcfg hm hrun hgate hout hbc hw hval hN
  have hstart := startsPeriod_mode2 hcfg hm hrun hgate hout hbc hw hval hN
  refine ⟨fun k hk => ?_, hstart.pulses_period⟩
  have hlow : N - k ≤ 1 ↔ k = N - 1 := by omega
  rw [hstart.pulses_eq, dividing, Nat.mod_eq_of_lt hk]
  simp only [hlow, countedTo]

end Sys2Proof.Machine

/-! Mode 3: a start of the count sets a new half-way mark, one pulse, and the period of the square wave generator
(R18, R22, R130, R133). -/

namespace Sys2Proof.Machine

section SquareWave
variable {c : Counter} {w : Word} {N k : Nat}

/-- In mode 3 a start halves the count for the half-way mark, so the counter register has to hold a number (R18,
R22). -/
theorem startCount_of_m3 (o : OutPin) (hm : c.mode = .m3) (hw : loadedCount c = some w) (hk : val w c.bcd = some k) :
    startCount c o = .ok { c with bc := some w, run := true, out := o, half := k / 2 } := by
  rw [startCount_of_loaded o hw hk, started, if_pos hm]

theorem lowMark_of_m3 (hm : c.mode = .m3) : lowMark c = some c.half := by simp [lowMark, hm]

/-- Mode 3 at the start of a period: the reload sets the half-way mark that already stands, so it gives the same
counter (R18, R133). -/
theorem startsPeriod_mode3 (hcfg : c.cfg = true) (hm : c.mode = .m3) (hrun : c.run = true) (hgate : c.gate = true)
    (hout : c.out = .hi) (hbc : c.bc = some w) (hw : loadedCount c = some w) (hval : val w c.bcd = some N)
    (hN : 2 ≤ N) (hhalf : c.half = N / 2) : StartsPeriod c N (N / 2) where
  cfg := hcfg
  mode := .inr hm
  gate := hgate
  run := hrun
  out := hout
  count := by rw [hbc, enc_of_val hval]
  countBound := val_le_max hval
  mark := by rw [lowMark_of_m3 hm, hhalf]
  markBelow := by omega
  restart := by rw [startCount_of_m3 .hi hm hw hval, ← hbc, ← hrun, ← hout, ← hhalf]

end SquareWave

/-! ## The statements -/

/-- Settles O35: the counted pulse is `clockCounter_counted23` with the half-way mark, and at the terminal count with
the gate at 1 it is a start of the count. -/
theorem pulseInMode3 : Obligations.PulseInMode3 := by
  intro s n w k hcfg hrun hbc hval hm _
  have hpulse := clockCounter_counted23 hcfg hrun (.inr hm) (lowMark_of_m3 hm) hbc hval
  have hk : k ≤ maxCount (s.ctr n).bcd := Nat.le_of_succ_le (val_le_max hval)
  rw [exec_clkPulse]
  refine ⟨fun h0 => ?_, ?_, ?_, ?_⟩
  · exact onCounter_ok (hpulse.trans (reloadAtTC_countedTo_above hk h0))
  · rintro rfl hgate
    exact onCounter_ok (hpulse.trans (reloadAtTC_countedTo_stop hgate))
  · rintro rfl hgate r j hr hj
    rw [reloadAtTC_countedTo_restart hrun hgate, startCount_of_m3 .hi hm hr hj, ← hrun] at hpulse
    exact onCounter_ok hpulse
  · rintro rfl hgate hr
    rw [reloadAtTC_countedTo_restart hrun hgate, startCount_not_loaded hr] at hpulse
    exact onCounter_error hpulse

/-- Settles O39: the pulses follow `dividing` with the low mark `N / 2`, which is reached at pulse `(N + 1) / 2`. -/
theorem squareWavePeriod : Obligations.SquareWavePeriod := by
  intro s n w N hcfg hm hrun hgate hout hbc hw hval hN hhalf
  have hstart := startsPeriod_mode3 hcfg hm hrun hgate hout hbc hw hval hN hhalf
  refine ⟨fun k hk => ?_, hstart.pulses_period⟩
  have hlow : N - k ≤ N / 2 ↔ (N + 1) / 2 ≤ k := by omega
  rw [hstart.pulses_eq, dividing, Nat.mod_eq_of_lt hk]
  simp only [hlow, countedTo]

end Sys2Proof.Machine

/-! Mode 4, where the load is the trigger; the counted pulse and the strobe of modes 4 and 5; and the pulse that is not
counted (R140, R141, R144, R150, R154, R212). -/

namespace Sys2Proof.Machine

section Strobe
variable {c : Counter} {w : Word} {k N : Nat}

/-- A legal count lets a completed load in mode 4 through to `Load4`, which starts the count (R79, R82, R141). -/
theorem loadComplete_mode4 (p : Mode0Reload) (level : Bool) (hw : loadedCount c = some w)
    (hk : val w c.bcd = some (k + 2)) (hm : c.mode = .m4) : loadComplete p level c = startCount c .hi := by
  have hlegal : checkCount w c.bcd .m4 = .ok () := checkCount_ok_iff.2 ⟨k + 1, hk, nofun⟩
  simp [loadComplete, hw, hm, hlegal, load4]

/-- A counted pulse of modes 4 and 5 counts down, takes the output to 0 at the count 1, and stops at the terminal count
(R144, R154). -/
theorem clockCounter_counted45 (hcfg : c.cfg = true) (hrun : c.run = true) (hbc : c.bc = some w)
    (hval : val w c.bcd = some (k + 1)) (hmode : (c.mode = .m4 ∧ c.gate = true) ∨ c.mode = .m5) :
    clockCounter c = .ok (if k = 0 then atRest c else countedTo c k (if k = 1 then .lo else c.out)) := by
  have hle : k ≤ maxCount c.bcd := Nat.le_of_succ_le (val_le_max hval)
  have hdown : countDown c = .ok (countedTo c k c.out) := countDown_of_val hbc hval
  rw [← stopAtTC_countedTo hle, ← lowAt_countedTo hle]
  obtain ⟨hm, hg⟩ | hm := hmode
  · simp [clockCounter, hcfg, hm, clock4, hrun, hg, hdown]
  · simp [clockCounter, hcfg, hm, clock5, hrun, hdown]

/-- The counter `k` pulses after it stood at the running count `N`, where the output is 0 at the count 1 alone and the
count stops at the terminal count (R144, R154, D13). -/
def afterPulses45 (c : Counter) (N k : Nat) : Counter :=
  if k < N then countedTo c (N - k) (if N - k = 1 then .lo else .hi) else atRest c

theorem afterPulses45_zero (hbc : c.bc = some w) (hval : val w c.bcd = some N) (hN : 2 ≤ N) (hout : c.out = .hi) :
    afterPulses45 c N 0 = c := by
  rw [afterPulses45, if_pos (by omega), Nat.sub_zero, if_neg (by omega), countedTo, enc_of_val hval, ← hbc, ← hout]

/-- One pulse takes the waveform one place further. -/
theorem clockCounter_afterPulses45 (hcfg : c.cfg = true) (hrun : c.run = true) (hN : N ≤ maxCount c.bcd)
    (hmode : (c.mode = .m4 ∧ c.gate = true) ∨ c.mode = .m5) (k : Nat) :
    clockCounter (afterPulses45 c N k) = .ok (afterPulses45 c N (k + 1)) := by
  by_cases hk : k < N
  · obtain ⟨left, hleft⟩ : ∃ left, N - k = left + 1 := ⟨N - k - 1, by omega⟩
    have hval : val (enc (left + 1) c.bcd) c.bcd = some (left + 1) := val_enc (by omega)
    have hpulse (o : OutPin) := clockCounter_counted45 (c := countedTo c (left + 1) o) hcfg hrun rfl hval hmode
    by_cases hlast : left = 0
    · have hbefore : afterPulses45 c N k = countedTo c (left + 1) .lo := by
        rw [afterPulses45, if_pos hk, hleft, if_pos (by omega)]
      have hafter : afterPulses45 c N (k + 1) = atRest c := if_neg (by omega)
      rw [hbefore, hafter, hpulse, if_pos hlast]
      rfl
    · have hbefore : afterPulses45 c N k = countedTo c (left + 1) .hi := by
        rw [afterPulses45, if_pos hk, hleft, if_neg (by omega)]
      have hafter : afterPulses45 c N (k + 1) = countedTo c left (if left = 1 then .lo else .hi) := by
        rw [afterPulses45, if_pos (by omega), show N - (k + 1) = left by omega]
      rw [hbefore, hafter, hpulse, if_neg hlast]
      rfl
  · rw [afterPulses45, afterPulses45, if_neg hk, if_neg (by omega)]
    exact clockCounter_notCounted (.inr (.inl rfl))

end Strobe

/-! ## The statements -/

/-- Settles O21: the load starts the count with the output at 1 (`loadComplete_mode4`). -/
theorem mode4LoadStartsTheCount : Obligations.Mode4LoadStartsTheCount := by
  intro s n d i e w k hi hadm he hw hk hm
  refine (exec_write_eq_next hi hadm).2 ⟨_, ?_, rfl⟩
  rw [writeByte_of_completedBy he, loadComplete_mode4 _ _ hw hk hm, startCount_of_ne_m3 .hi hw (by simp [hm])]

/-- Settles O32: the three cases are those of `clockCounter_notCounted`. -/
theorem pulseWithoutEffect : Obligations.PulseWithoutEffect := by
  intro s n h
  rw [exec_clkPulse, onCounter_ok (clockCounter_notCounted h), State.setCtr_ctr]

/-- Settles O36: the two outcomes of `clockCounter_counted45`. -/
theorem pulseInModes4And5 : Obligations.PulseInModes4And5 := by
  intro s n w k hcfg hrun hbc hval hmode
  rw [exec_clkPulse, onCounter_ok (clockCounter_counted45 hcfg hrun hbc hval hmode)]
  by_cases h0 : k = 0
  · simp [h0, atRest, enc_zero]
  · simp [h0, countedTo, hrun]

/-- Settles O40: the pulses follow the waveform `afterPulses45`, whose count is 1 after pulse `N - 1`. -/
theorem strobeIsOnePulse : Obligations.StrobeIsOnePulse := by
  intro s n w N hcfg hrun hbc hval hN hout hmode
  have hfollow (k : Nat) : pulses n k s = .next (s.setCtr n (afterPulses45 (s.ctr n) N k)) :=
    pulses_follow (afterPulses45_zero hbc hval hN hout)
      (clockCounter_afterPulses45 hcfg hrun (val_le_max hval) hmode) k
  refine ⟨fun k hk => ?_, fun k hk => ?_⟩
  · have hlast : N - k = 1 ↔ k = N - 1 := by omega
    rw [hfollow, afterPulses45, if_pos hk]
    simp only [hlast, countedTo]
  · rw [hfollow, afterPulses45, if_neg (by omega), atRest, ← hout]

end Sys2Proof.Machine

/-! The host: the fetch of its instruction, its five instructions as bus operations and register writes, and what no
instruction changes outside the counters (R32 to R35, R43, R170 to R176). -/

namespace Sys2Proof.Machine

/-! ## The fetch -/

/-- With the host to move the step takes its bytes at PC (log 2). -/
theorem nextEncoding_hostToMove {s : State} (h : s.inputs = [] ∨ ∃ rest, s.inputs = .host :: rest) :
    nextEncoding s = (fetchCode s.mem s.host.pc).map Encoding.code := by
  obtain h | ⟨rest, h⟩ := h
  · simp [nextEncoding, h]
  · exact nextEncoding_host h

theorem fetchCode_oneByte {m : Memory} {pc : Word} {op : Byte} (hop : Memory.read m pc.toNat = some op)
    (ht : takesOperand op = false) : fetchCode m pc = .ok [op] := by
  simp [fetchCode, fetchByte_ok_iff.2 hop, ht]

theorem fetchCode_twoBytes {m : Memory} {pc : Word} {op b : Byte} (hop : Memory.read m pc.toNat = some op)
    (ht : takesOperand op = true) (hb : Memory.read m (pcNext pc).toNat = some b) : fetchCode m pc = .ok [op, b] := by
  simp [fetchCode, fetchByte_ok_iff.2 hop, ht, fetchByte_ok_iff.2 hb]

/-- Settles O7: what the fetch takes is the one byte or the two that decode to the instruction. -/
theorem stepRunsTheHostInstruction : Obligations.StepRunsTheHostInstruction := by
  intro s op i hmove hop hbytes
  have runs {bytes : List Byte} (hfetch : fetchCode s.mem s.host.pc = .ok bytes)
      (hi : decode (.code bytes) = .ok i) : step s = exec i s.popInput :=
    step_of_decode (by rw [nextEncoding_hostToMove hmove, hfetch]; rfl) hi
  obtain ⟨ht, hi⟩ | ⟨b, ht, hb, hi⟩ := hbytes
  · exact runs (fetchCode_oneByte hop ht) hi
  · exact runs (fetchCode_twoBytes hop ht hb) hi

/-! ## The program counter -/

/-- Below FFFFH the PC is incremented by one for a byte (R171). -/
theorem pcNext_of_lt {pc : Word} (h : pc.toNat < 65535) : pcNext pc = pc + 1#16 := by
  rw [pcNext, if_neg]
  rintro rfl
  exact absurd h (by decide)

theorem pcNext_toNat {pc : Word} (h : pc.toNat < 65535) : (pcNext pc).toNat = pc.toNat + 1 := by
  rw [pcNext_of_lt h]
  bv_omega

theorem pcNext_pcNext_of_lt {pc : Word} (h : pc.toNat < 65534) : pcNext (pcNext pc) = pc + 2#16 := by
  rw [pcNext_of_lt (by rw [pcNext_toNat (by omega)]; omega), pcNext_of_lt (by omega), BitVec.add_assoc]
  rfl

/-! ## The instructions that reach no port -/

theorem exec_mviA (d8 : Byte) (s : State) : exec (.mviA d8) s =
    .next { s with host := { s.host with a := d8, pc := pcNext (pcNext s.host.pc) } } := rfl

theorem exec_movEA (s : State) : exec .movEA s =
    .next { s with host := { s.host with e := s.host.a, pc := pcNext s.host.pc } } := rfl

theorem exec_movDA (s : State) : exec .movDA s =
    .next { s with host := { s.host with d := s.host.a, pc := pcNext s.host.pc } } := rfl

/-- Settles O48. -/
theorem pcStepping : Obligations.PcStepping :=
  ⟨fun _ => pcNext_toNat, if_pos rfl, fun s d8 => ⟨exec_mviA d8 s, exec_movEA s, exec_movDA s⟩⟩

/-- Settles O46: `exec_mviA`, with the PC two bytes on. -/
theorem mviLoadsTheAccumulator : Obligations.MviLoadsTheAccumulator := by
  refine fun d8 => ⟨rfl, fun s hpc => ?_⟩
  rw [exec_mviA, pcNext_pcNext_of_lt hpc]

/-- Settles O47: `exec_movEA` and `exec_movDA`, with the PC one byte on. -/
theorem movCopiesTheAccumulator : Obligations.MovCopiesTheAccumulator := by
  refine ⟨rfl, rfl, fun s hpc => ?_⟩
  rw [exec_movEA, exec_movDA, pcNext_of_lt hpc]
  exact ⟨rfl, rfl⟩

/-! ## What an event on the pins leaves outside the device -/

/-- `t` holds what `s` holds in the host registers, the parameters and the queue. -/
structure SameOutside (s t : State) : Prop where
  host : t.host = s.host
  board : t.board = s.board
  inputs : t.inputs = s.inputs

section Outside
variable {s t : State} {n : CtrIdx}

theorem SameOutside.tristate (s : State) : SameOutside s s.tristate := ⟨rfl, rfl, rfl⟩

theorem SameOutside.setCtr (h : SameOutside s t) (n : CtrIdx) (c : Counter) : SameOutside s (t.setCtr n c) :=
  ⟨(State.setCtr_host t n c).trans h.host, (State.setCtr_board t n c).trans h.board,
    (State.setCtr_inputs t n c).trans h.inputs⟩

theorem onCounter_outside {f : Counter → Except Refusal Counter} (h : onCounter n f s = .next t) :
    SameOutside s t := by
  obtain ⟨c, -, rfl⟩ := onCounter_eq_next.1 h
  exact SameOutside.setCtr ⟨rfl, rfl, rfl⟩ n c

theorem modeSet_outside {rw : RW} {m : Mode} {bcd : Bool} (h : modeSet n rw m bcd s = .next t) :
    SameOutside s t := by
  obtain ⟨-, rfl⟩ := modeSet_eq_next.1 h
  rw [State.tristate_setCtr]
  exact (SameOutside.tristate s).setCtr n _

theorem latchCommand_outside (h : latchCommand n s = .next t) : SameOutside s t := by
  obtain ⟨-, -, -, rfl⟩ := latchCommand_eq_next.1 h
  exact ⟨rfl, rfl, rfl⟩

theorem counterWrite_outside {d : Byte} (h : counterWrite n d s = .next t) : SameOutside s t := by
  obtain ⟨-, -, -, c, -, rfl⟩ := counterWrite_eq_next.1 h
  have pins : SameOutside s s.tristate.drawn := ⟨rfl, rfl, rfl⟩
  exact pins.setCtr n c

theorem counterRead_outside (h : counterRead n s = .next t) : SameOutside s t := by
  obtain ⟨-, -, rfl⟩ := counterRead_eq_next.1 h
  obtain ⟨hhost, -, hboard, hinputs⟩ := readCounter_frame n s
  exact ⟨hhost, hboard, hinputs⟩

theorem busNop_outside (h : busNop s = .next t) : SameOutside s t := by
  cases h
  exact .tristate s

theorem portWrite_outside {a : BitVec 2} {d : Byte} (h : portWrite a d s = .next t) : SameOutside s t := by
  obtain ⟨-, hc⟩ | ⟨n, -, hw⟩ := portWrite_next h
  · obtain ⟨n, -, ⟨-, hl⟩ | ⟨rw, m, -, -, hm⟩⟩ := controlWrite_next hc
    · exact latchCommand_outside hl
    · exact modeSet_outside hm
  · exact counterWrite_outside hw

theorem portRead_outside {a : BitVec 2} (h : portRead a s = .next t) : SameOutside s t := by
  obtain ⟨-, rfl⟩ | ⟨n, -, hr⟩ := portRead_next h
  · exact .tristate s
  · exact counterRead_outside hr

theorem hostOut_outside {a8 : Byte} (h : hostOut a8 s = .next t) : SameOutside s t := by
  obtain ⟨-, hw⟩ | ⟨-, rfl⟩ := hostOut_next h
  · exact portWrite_outside hw
  · exact .tristate s

theorem hostIn_outside {a8 : Byte} (h : hostIn a8 s = .next t) : SameOutside s t := by
  obtain ⟨-, hr⟩ | ⟨-, rfl⟩ := hostIn_next h
  · exact portRead_outside hr
  · exact .tristate s

end Outside

/-! ## The ports as the host addresses them (R35, R176) -/

theorem selects8253_iff {b : Board} {a8 : Byte} :
    selects8253 b a8 = true ↔ a8.toNat / 4 = b.portBase.toNat := by
  rw [selects8253, beq_iff_eq, ← BitVec.toNat_inj, BitVec.extractLsb'_toNat, Nat.shiftRight_eq_div_pow]
  omega

theorem devicePort_toNat (a8 : Byte) : (devicePort a8).toNat = a8.toNat % 4 := by
  simp [devicePort]

theorem devicePort_control {a8 : Byte} (h : a8.toNat % 4 = 3) : devicePort a8 = 3#2 :=
  BitVec.eq_of_toNat_eq ((devicePort_toNat a8).trans h)

theorem devicePort_counter {a8 : Byte} {n : CtrIdx} (h : a8.toNat % 4 = (ctrBits n).toNat) :
    devicePort a8 = ctrBits n :=
  BitVec.eq_of_toNat_eq ((devicePort_toNat a8).trans h)

section Ports
variable {s t : State} {a8 : Byte} {i : Instr} {n : CtrIdx} {r : Refusal} {b : Byte}

/-! ## `OUT` -/

/-- The bus write that `OUT a8` of the accumulator is, where the port is one of the device (R173). -/
theorem hostOut_eq_exec (hsel : a8.toNat / 4 = s.board.portBase.toNat)
    (hi : (a8.toNat % 4 = 3 ∧ i = .busWrCtl s.host.a) ∨
      ∃ n, a8.toNat % 4 = (ctrBits n).toNat ∧ i = busWriteOf n s.host.a) : hostOut a8 s = exec i s := by
  have hport : hostOut a8 s = portWrite (devicePort a8) s.host.a s := if_pos (selects8253_iff.2 hsel)
  rw [hport]
  obtain ⟨ha, rfl⟩ | ⟨n, ha, rfl⟩ := hi
  · rw [devicePort_control ha]
    rfl
  · rw [devicePort_counter ha, portWrite_counter, exec_busWriteOf]
    rfl

theorem hostOut_deselected (hsel : a8.toNat / 4 ≠ s.board.portBase.toNat) : hostOut a8 s = .next s.tristate :=
  if_neg (mt selects8253_iff.1 hsel)

theorem exec_outA8 (a8 : Byte) (s : State) :
    exec (.outA8 a8) s = andThen (hostOut a8 s) fun t => .next t.pcBy2 := rfl

/-- The cycle of an `OUT` leaves the host registers, and then PC moves (R173). -/
theorem exec_outA8_of_next (h : hostOut a8 s = .next t) :
    exec (.outA8 a8) s = .next { t with host := { s.host with pc := pcNext (pcNext s.host.pc) } } := by
  rw [exec_outA8, h, andThen_next, State.pcBy2, (hostOut_outside h).host]

theorem exec_outA8_of_refused (h : hostOut a8 s = .refused r) : exec (.outA8 a8) s = .refused r := by
  rw [exec_outA8, h]
  rfl

/-! ## `IN` -/

/-- From a counter port `IN` is the bus read of that port (R174). -/
theorem hostIn_eq_exec (hsel : a8.toNat / 4 = s.board.portBase.toNat) (ha : a8.toNat % 4 = (ctrBits n).toNat) :
    hostIn a8 s = exec (busReadOf n) s := by
  have hport : hostIn a8 s = portRead (devicePort a8) s := if_pos (selects8253_iff.2 hsel)
  rw [hport, devicePort_counter ha, portRead_counter, exec_busReadOf]
  rfl

/-- The device drives nothing from its control port (R93), nor where it is deselected (R34). -/
theorem hostIn_undriven (h : a8.toNat / 4 ≠ s.board.portBase.toNat ∨ a8.toNat % 4 = 3) :
    hostIn a8 s = .next s.tristate := by
  unfold hostIn
  split
  · next hsel =>
    rw [devicePort_control (h.resolve_left (not_not_intro (selects8253_iff.1 hsel))), portRead_control]
    rfl
  · rfl

/-- A read that is not refused drives a byte (R89, R90). -/
theorem readCounter_driven (n : CtrIdx) (s : State) : ∃ b, (readCounter n s).dataPins = .driven b := by
  obtain ⟨-, e⟩ | ⟨x, -, -, e⟩ := readCounter_cases n s
  · obtain ⟨b, e'⟩ | ⟨-, b, p, e'⟩ := directRead_cases n s
    · exact ⟨b, by rw [e, e', State.drive_dataPins]⟩
    · exact ⟨b, by rw [e, e', State.drive_dataPins]⟩
  · rw [e]
    cases x.left with
    | two => exact ⟨_, rfl⟩
    | one => exact ⟨_, rfl⟩

theorem exec_inA8 (a8 : Byte) (s : State) :
    exec (.inA8 a8) s = andThen (hostIn a8 s) fun t => .next t.receive.pcBy2 := rfl

/-- The accumulator takes the byte that the device drives (R174). -/
theorem exec_inA8_of_driven (h : hostIn a8 s = .next t) (hb : t.dataPins = .driven b) :
    exec (.inA8 a8) s = .next { t with host := { s.host with a := b, pc := pcNext (pcNext s.host.pc) } } := by
  rw [exec_inA8, h, andThen_next, State.receive_driven t b hb, State.pcBy2, State.setA, (hostIn_outside h).host]

end Ports

/-- Settles O49: the cycle is the bus write of the port (`hostOut_eq_exec`) or finds the device deselected
(`hostOut_deselected`). -/
theorem outIsABusWrite : Obligations.OutIsABusWrite := by
  intro s a8
  refine ⟨fun hsel => exec_outA8_of_next (hostOut_deselected hsel), fun hsel i hi => ?_,
    fun hsel ha n rw m bcd hword hcfg => ?_, fun hsel n ha hadm hrw hwph => ?_⟩
  · rw [← hostOut_eq_exec hsel hi]
    exact ⟨fun t => exec_outA8_of_next, fun r => exec_outA8_of_refused⟩
  · have hunset : (s.ctr n).cfg = true → (s.ctr n).wph = .ls ∧ (s.ctr n).rph = .ls ∧ latchIsOf s.latch n = false :=
      fun h => by simp [hcfg] at h
    have hcycle : hostOut a8 s = exec (.busWrCtl (encodeModeWord n rw m bcd)) s :=
      hword ▸ hostOut_eq_exec hsel (.inl ⟨ha, rfl⟩)
    exact ⟨_, modeSettingSetsUpTheCounter s n rw m bcd _ hunset (.inl rfl),
      exec_outA8_of_next (hcycle.trans (modeSettingSetsUpTheCounter s n rw m bcd _ hunset (.inr rfl)))⟩
  · have hcycle : hostOut a8 s = exec (busWriteOf n s.host.a) s := hostOut_eq_exec hsel (.inr ⟨n, ha, rfl⟩)
    exact ⟨_, firstByteOfALoad s n s.host.a _ (.inl rfl) hadm hrw hwph,
      exec_outA8_of_next (hcycle.trans (firstByteOfALoad s n s.host.a _ (.inr rfl) hadm hrw hwph))⟩

/-- Settles O50: the cycle drives nothing (`hostIn_undriven`) or is the bus read of a counter port (`hostIn_eq_exec`),
which drives a byte. -/
theorem inIsABusRead : Obligations.InIsABusRead := by
  intro s a8
  refine ⟨fun h => ?_, fun hsel n ha => ?_⟩
  · rw [exec_inA8, hostIn_undriven h]
    rfl
  · have hcycle := hostIn_eq_exec hsel ha
    refine ⟨fun hadm => ?_, fun r hr => ?_⟩
    · have hread := exec_read_admitted (i := busReadOf n) (.inr rfl) hadm
      obtain ⟨b, hb⟩ := readCounter_driven n s
      exact ⟨_, b, hread, hb, exec_inA8_of_driven (hcycle.trans hread) hb⟩
    · rw [exec_inA8, hcycle, hr]
      rfl

/-! ## What an instruction does outside the device -/

/-- What an instruction can do to the host registers (R170 to R175). -/
inductive HostEffect (r : HostRegs) : Instr → HostRegs → Prop where
  /-- an event on the pins writes none of them -/
  | event (i : Instr) : HostEffect r i r
  | mviA (d8 : Byte) : HostEffect r (.mviA d8) { r with a := d8, pc := pcNext (pcNext r.pc) }
  | outA8 (a8 : Byte) : HostEffect r (.outA8 a8) { r with pc := pcNext (pcNext r.pc) }
  | inA8 (a8 b : Byte) : HostEffect r (.inA8 a8) { r with a := b, pc := pcNext (pcNext r.pc) }
  | movEA : HostEffect r .movEA { r with e := r.a, pc := pcNext r.pc }
  | movDA : HostEffect r .movDA { r with d := r.a, pc := pcNext r.pc }

/-- What the instruction `i` does from `s` to `t` outside the device. -/
structure OutsideEffect (i : Instr) (s t : State) : Prop where
  host : HostEffect s.host i t.host
  board : t.board = s.board
  inputs : t.inputs = s.inputs

section OutsideEffect
variable {s t : State} {i : Instr}

theorem SameOutside.effect (h : SameOutside s t) : OutsideEffect i s t := ⟨h.host ▸ .event i, h.board, h.inputs⟩

theorem State.receive_host (s : State) : ∃ b, s.receive.host = { s.host with a := b } := by
  cases hd : s.dataPins with
  | driven b => exact ⟨b, by rw [State.receive_driven s b hd, State.setA_host]⟩
  | z => exact ⟨_, by rw [State.receive_z s hd]; rfl⟩

/-- What an instruction with a next state has done outside the device. -/
theorem exec_outside (h : exec i s = .next t) : OutsideEffect i s t := by
  cases i with
  | busRdC0 => exact (portRead_outside (a := 0#2) h).effect
  | busRdC1 => exact (portRead_outside (a := 1#2) h).effect
  | busRdC2 => exact (portRead_outside (a := 2#2) h).effect
  | busRdCtlNop => exact (portRead_outside (a := 3#2) h).effect
  | busWrC0 d => exact (portWrite_outside (a := 0#2) h).effect
  | busWrC1 d => exact (portWrite_outside (a := 1#2) h).effect
  | busWrC2 d => exact (portWrite_outside (a := 2#2) h).effect
  | busWrCtl d => exact (portWrite_outside (a := 3#2) h).effect
  | busNopDeselected pins => exact (busNop_outside h).effect
  | busNopIdle pins => exact (busNop_outside h).effect
  | busRdwrBothLow pins => cases h
  | cwIllegalSc w => cases h
  | cwLatch n x => exact (latchCommand_outside h).effect
  | cwMode0 n rw bcd => exact (modeSet_outside h).effect
  | cwMode1 n rw bcd => exact (modeSet_outside h).effect
  | cwMode2 n rw bcd => exact (modeSet_outside h).effect
  | cwMode3 n rw bcd => exact (modeSet_outside h).effect
  | cwMode4 n rw bcd => exact (modeSet_outside h).effect
  | cwMode5 n rw bcd => exact (modeSet_outside h).effect
  | cwIllegalMode w => cases h
  | cntWr n d => exact (counterWrite_outside h).effect
  | cntRd n => exact (counterRead_outside h).effect
  | clkPulse n => exact (onCounter_outside h).effect
  | gateSet n v => exact (onCounter_outside h).effect
  | mviA d8 => cases h; exact ⟨.mviA d8, rfl, rfl⟩
  | outA8 a8 =>
    obtain ⟨u, hu, hpc⟩ := andThen_eq_next.1 h
    obtain ⟨hhost, hboard, hinputs⟩ := hostOut_outside hu
    cases hpc
    exact ⟨by rw [State.pcBy2_host, hhost]; exact .outA8 a8, hboard, hinputs⟩
  | inA8 a8 =>
    obtain ⟨u, hu, hpc⟩ := andThen_eq_next.1 h
    obtain ⟨hhost, hboard, hinputs⟩ := hostIn_outside hu
    obtain ⟨b, hb⟩ := u.receive_host
    cases hpc
    exact ⟨by rw [State.pcBy2_host, hb, hhost]; exact .inA8 a8 b, (State.receive_board u).trans hboard,
      (State.receive_inputs u).trans hinputs⟩
  | movEA => cases h; exact ⟨.movEA, rfl, rfl⟩
  | movDA => cases h; exact ⟨.movDA, rfl, rfl⟩

theorem exec_mem (h : exec i s = .next t) : t.mem = s.mem := by
  obtain ⟨u, hu, hut⟩ := exec_effect h
  exact hut.mem.trans hu.mem_eq

end OutsideEffect

/-- Settles O52: program memory is `exec_mem`, the rest `exec_outside`, and each host instruction writes only what
`HostEffect` names. -/
theorem hostAndMemoryFrame : Obligations.HostAndMemoryFrame := by
  intro s t i h
  obtain ⟨hhost, hboard, hinputs⟩ := exec_outside h
  refine ⟨fun a => by rw [exec_mem h], hboard, hinputs, ?_⟩
  generalize s.host = r, t.host = r' at hhost ⊢
  cases hhost with
  | event i => exact ⟨absurd rfl, absurd rfl, absurd rfl, absurd rfl⟩
  | mviA d8 => exact ⟨absurd rfl, absurd rfl, fun _ => ⟨d8, .inl rfl⟩, fun _ => ⟨_, rfl⟩⟩
  | outA8 a8 => exact ⟨absurd rfl, absurd rfl, absurd rfl, fun _ => ⟨_, rfl⟩⟩
  | inA8 a8 b => exact ⟨absurd rfl, absurd rfl, fun _ => ⟨a8, .inr rfl⟩, fun _ => ⟨_, rfl⟩⟩
  | movEA => exact ⟨absurd rfl, fun _ => rfl, absurd rfl, fun _ => ⟨_, rfl⟩⟩
  | movDA => exact ⟨fun _ => rfl, absurd rfl, absurd rfl, fun _ => ⟨_, rfl⟩⟩

end Sys2Proof.Machine

/-! What the environment meets: the one refusal of pulses and gate changes (R22, R191), and the output of mode 0 as an
interrupt request (R193, R194). -/

namespace Sys2Proof.Machine

/-! ## Where a pulse or a gate change is refused -/

section Refusals
variable {c : Counter} {r : Refusal} {k : Nat} {o : OutPin}

/-- Where the counter register holds a number, a start is refused exactly before the counter is completely loaded
(R22). -/
theorem startCount_eq_error (h : RegisterDefined c) (o : OutPin) :
    startCount c o = .error r ↔ r = .notLoaded ∧ loadedCount c = none := by
  cases hw : loadedCount c with
  | none => simp [startCount_not_loaded hw, eq_comm]
  | some w =>
    obtain ⟨k, hk⟩ := h w hw
    simp [startCount_of_loaded o hw hk]

/-- The terminal count is refused where the start of the next count is (R124, R133). -/
theorem reloadAtTC_countedTo_eq_error (h : RegisterDefined c) (hr : c.run = true) (hk : k ≤ maxCount c.bcd) :
    reloadAtTC (countedTo c k o) = .error r ↔
      r = .notLoaded ∧ k = 0 ∧ c.gate = true ∧ loadedCount c = none := by
  by_cases h0 : k = 0
  · subst h0
    cases hg : c.gate with
    | false => simp [reloadAtTC_countedTo_stop hg]
    | true => simp [reloadAtTC_countedTo_restart hr hg, startCount_eq_error h]
  · simp [reloadAtTC_countedTo_above hk h0, h0]

/-- In the modes that stop at the terminal count, a pulse on a running count has a next state (R102, R114, R144, R154). -/
theorem clockCounter_ok_of_stopping {w : Word} (hcfg : c.cfg = true) (hrun : c.run = true) (hbc : c.bc = some w)
    (hval : val w c.bcd = some (k + 1)) (hmode : ¬(c.mode = .m2 ∨ c.mode = .m3)) :
    ∃ c', clockCounter c = .ok c' := by
  have level (hm : c.mode = .m0 ∨ c.mode = .m4) (hg : ¬c.gate = true) : clockCounter c = .ok c :=
    clockCounter_notCounted (.inr (.inr ⟨Bool.eq_false_of_not_eq_true hg, hm⟩))
  cases hm : c.mode with
  | m0 =>
    by_cases hg : c.gate = true
    · exact ⟨_, clockCounter_counted01 hcfg hrun hbc hval (.inl ⟨hm, hg⟩)⟩
    · exact ⟨_, level (.inl hm) hg⟩
  | m1 => exact ⟨_, clockCounter_counted01 hcfg hrun hbc hval (.inr hm)⟩
  | m2 => exact absurd (.inl hm) hmode
  | m3 => exact absurd (.inr hm) hmode
  | m4 =>
    by_cases hg : c.gate = true
    · exact ⟨_, clockCounter_counted45 hcfg hrun hbc hval (.inl ⟨hm, hg⟩)⟩
    · exact ⟨_, level (.inr hm) hg⟩
  | m5 => exact ⟨_, clockCounter_counted45 hcfg hrun hbc hval (.inr hm)⟩

/-- The pulse that R191 refuses: the terminal count of modes 2 and 3 with nothing to load again (D12). -/
theorem clockCounter_eq_error (h : CounterInv c) :
    clockCounter c = .error r ↔
      r = .notLoaded ∧ c.cfg = true ∧ (c.mode = .m2 ∨ c.mode = .m3) ∧ c.run = true ∧ countIs c 1 = true ∧
        c.gate = true ∧ loadedCount c = none := by
  cases hcfg : c.cfg with
  | false => simp [clockCounter_notCounted (.inl hcfg)]
  | true =>
    cases hrun : c.run with
    | false => simp [clockCounter_notCounted (.inr (.inl hrun))]
    | true =>
      obtain ⟨w, k, hbc, hval⟩ := h.running hrun
      by_cases hmode : c.mode = .m2 ∨ c.mode = .m3
      · obtain ⟨j, hmark⟩ : ∃ j, lowMark c = some j := by
          obtain hm | hm := hmode
          · exact ⟨1, by simp [lowMark, hm]⟩
          · exact ⟨_, lowMark_of_m3 hm⟩
        have hlast : countIs c 1 = true ↔ k = 0 := by simp [countIs, hbc, hval]
        rw [clockCounter_counted23 hcfg hrun hmode hmark hbc hval,
          reloadAtTC_countedTo_eq_error h.registerDefined hrun (Nat.le_of_succ_le (val_le_max hval)), hlast]
        simp only [hmode, true_and]
      · obtain ⟨c', hc'⟩ := clockCounter_ok_of_stopping hcfg hrun hbc hval hmode
        simp [hc', hmode]

/-- The gate change that R191 refuses: a trigger with nothing to load (D12). -/
theorem gateCounter_eq_error (h : RegisterDefined c) (v : Bool) :
    gateCounter v c = .error r ↔
      r = .notLoaded ∧ v = true ∧ c.gate = false ∧ c.cfg = true ∧ c.mode ≠ .m0 ∧ c.mode ≠ .m4 ∧
        loadedCount c = none := by
  cases v with
  | false => simp [gateCounter_fall]
  | true =>
    cases hg : c.gate with
    | true => simp [show gateCounter true c = .ok c from hg ▸ gateCounter_same c]
    | false =>
      cases hcfg : c.cfg with
      | false => simp [gateCounter_unset (v := true) (by simp [hg]) hcfg]
      | true =>
        by_cases hmode : c.mode = .m0 ∨ c.mode = .m4
        · have hnot : ¬(c.mode ≠ .m0 ∧ c.mode ≠ .m4 ∧ loadedCount c = none) := by tauto
          simp [gateCounter_level true hmode, hnot]
        · obtain ⟨h0, h4⟩ := not_or.1 hmode
          have hdef : RegisterDefined { c with gate := true } := h
          have hloaded : loadedCount { c with gate := true } = loadedCount c := rfl
          rw [gateCounter_rise hg hcfg h0 h4, startCount_eq_error hdef, hloaded]
          simp only [ne_eq, h0, h4, not_false_eq_true, true_and]

end Refusals

/-- Settles O59: the two refusals of the environment, on its counter (`clockCounter_eq_error`,
`gateCounter_eq_error`). -/
theorem environmentRefusals : Obligations.EnvironmentRefusals := by
  intro s n hi
  have hcounter := hi.counters n
  refine ⟨fun r => ?_, fun v r => ?_⟩
  · rw [exec_clkPulse, onCounter_eq_refused, clockCounter_eq_error hcounter]
  · rw [exec_gateSet, onCounter_eq_refused, gateCounter_eq_error hcounter.registerDefined]

/-! ## The interrupt request of mode 0 -/

/-- The request of Counter n follows its output (R193). -/
theorem interruptRequest_setCtr (s : State) (n : CtrIdx) (c : Counter) :
    interruptRequest (s.setCtr n c) n = if c.out = .hi then irqPinOf (wiringOf s.board n) else none := by
  simp [interruptRequest]

theorem pinTarget_eq_some {i : Instr} {n : CtrIdx} :
    pinTarget i = some n ↔ i = .clkPulse n ∨ ∃ v, i = .gateSet n v := by
  cases i <;> simp [pinTarget]

/-- With its count stopped in mode 0, a counter keeps its output and stays stopped through every event on its pins
(R102, R103, D13). -/
theorem exec_pin_stopped {s : State} {n : CtrIdx} {i : Instr} (hm : (s.ctr n).mode = .m0)
    (hrun : (s.ctr n).run = false) (hi : pinTarget i = some n) :
    ∃ v, exec i s = .next (s.setCtr n { s.ctr n with gate := v }) := by
  obtain rfl | ⟨v, rfl⟩ := pinTarget_eq_some.1 hi
  · exact ⟨(s.ctr n).gate, onCounter_ok (clockCounter_notCounted (.inr (.inl hrun)))⟩
  · exact ⟨v, onCounter_ok (gateCounter_level v (.inl hm))⟩

/-- Settles O60: the terminal count puts the output to 1 (`clockCounter_counted01`), the events on the pins keep it
there (`exec_pin_stopped`), and the control word puts it to 0. -/
theorem interruptRequestOfMode0 : Obligations.InterruptRequestOfMode0 := by
  intro s n p hcfg hm hwire
  refine ⟨fun hrun hgate hone => ?_, fun hrun hout i hi => ?_, fun rw bcd hwph hrph hlatch => ?_⟩
  · obtain ⟨w, hbc, hval⟩ := countIs_eq_true.1 hone
    have hclock : clockCounter (s.ctr n) = .ok (atRest (s.ctr n)) :=
      clockCounter_counted01 (k := 0) hcfg hrun hbc hval (.inl ⟨hm, hgate⟩)
    have hout : (atRest (s.ctr n)).out = .hi := rfl
    refine ⟨_, onCounter_ok hclock, ?_⟩
    rw [interruptRequest_setCtr, if_pos hout, hwire]
  · obtain ⟨v, hv⟩ := exec_pin_stopped hm hrun hi
    refine ⟨_, hv, ?_, ?_⟩
    · rw [interruptRequest_setCtr, if_pos hout, hwire]
    · rw [State.ctr_setCtr_same]
      exact hrun
  · have hword := modeSettingSetsUpTheCounter s n rw .m0 bcd _ (fun _ => ⟨hwph, hrph, hlatch⟩) (.inl rfl)
    exact ⟨_, hword, (interruptRequest_setCtr _ n _).trans (if_neg (by simp))⟩

end Sys2Proof.Machine
